-- ==== Sys2Proof/Syntax.lean ====
section
/-! DEFINITION. The eight commands of the opcode map (30_encoding.md R71), each with the flags R72 assigns to it. -/

namespace Sys2Proof

/-- A command. No command has a register operand or an immediate (R75), so its flags are all it carries. -/
inductive Instr where
  /-- R190. -/
  | nop
  /-- R100; the flags are F0, F1, F2. -/
  | load (tperr hxerr h1err : Bool)
  /-- R155; the flag is F0. -/
  | conv (rderr : Bool)
  /-- R152; the flag is F0. -/
  | compt (rderr : Bool)
  /-- R153; the flag is F0. -/
  | compp (rderr : Bool)
  /-- R154; the flag is F0. -/
  | comph (rderr : Bool)
  /-- R191. -/
  | clrerr
  /-- R192. -/
  | unload
  deriving DecidableEq, Repr

/-- The mnemonic of R71, as spec/opcode_table.json spells it. -/
def Instr.mnemonic : Instr → String
  | .nop => "NOP"
  | .load _ _ _ => "LOAD"
  | .conv _ => "CONV"
  | .compt _ => "COMPT"
  | .compp _ => "COMPP"
  | .comph _ => "COMPH"
  | .clrerr => "CLRERR"
  | .unload => "UNLOAD"

end Sys2Proof
end

