-- ==== Sys2Proof/Word.lean ====
section
/-! DEFINITION. The word types of the CPP: command words, bytes and the two image ports. -/

namespace Sys2Proof

/-- A byte of an image (00_scope.md R8). -/
abbrev Byte := BitVec 8

/-- One 16-bit command word (30_encoding.md R70). -/
abbrev CmdWord := BitVec 16

/-- The coefficient image port: 32 bytes, byte k at port bits [8k+7:8k] (20_memory.md R50, R51). -/
abbrev CoefImage := BitVec 256

/-- The sample image port: 8 bytes, byte k at port bits [8k+7:8k] (20_memory.md R50, R52). -/
abbrev SampleImage := BitVec 64

end Sys2Proof
end

