-- ==== Sys2Proof/WellFormed.lean ====
section
/-! DEFINITION. What is checked before it reaches the machine: raw command words (the rows of 30_encoding.md R77)
and the byte lists a host turns into images (20_memory.md R58). A term of `Instr` carries only the flags R72 assigns,
as Booleans, and no register or immediate (R75): every `Instr` is well-formed, so no check on it is left. -/

namespace Sys2Proof

/-- One row of the table of R77. -/
structure OpcodeRow where
  mnemonic : String
  value    : CmdWord   -- the column "match"
  mask     : CmdWord
  deriving DecidableEq, Repr

/-- The table of R77 (spec/opcode_table.json). -/
def opcodeRows : List OpcodeRow :=
  [ { mnemonic := "NOP",    value := 0x0000, mask := 0xFFFF },
    { mnemonic := "LOAD",   value := 0x0001, mask := 0xFF8F },
    { mnemonic := "CONV",   value := 0x0002, mask := 0xFFEF },
    { mnemonic := "COMPT",  value := 0x0003, mask := 0xFFEF },
    { mnemonic := "COMPP",  value := 0x0004, mask := 0xFFEF },
    { mnemonic := "COMPH",  value := 0x0005, mask := 0xFFEF },
    { mnemonic := "CLRERR", value := 0x0006, mask := 0xFFFF },
    { mnemonic := "UNLOAD", value := 0x0007, mask := 0xFFFF } ]

/-- "A word w is the command of a row exactly when (w & mask) == match" (R77). -/
def OpcodeRow.covers (r : OpcodeRow) (w : CmdWord) : Bool := w &&& r.mask == r.value

/-- The check on a raw command word: some row of R77 covers it. -/
def CmdWord.legal (w : CmdWord) : Bool := opcodeRows.any (·.covers w)

/-- "An image is always its full length (32 or 8 bytes)" (R58): the check on a coefficient image's bytes. -/
def coefBytesOk (bytes : List Byte) : Bool := bytes.length == 32

/-- The same for a sample image's bytes (R58). -/
def sampleBytesOk (bytes : List Byte) : Bool := bytes.length == 8

end Sys2Proof
end

