-- ==== Sys2Proof/Decode.lean ====
section
/-! DEFINITION. The decoder of 30_encoding.md R76, total on every 16-bit word, and the encoder of R70 to R72. -/

namespace Sys2Proof

/-- Bits 3:0 (R70). -/
def fieldOp (w : CmdWord) : BitVec 4 := w.extractLsb' 0 4

/-- Bits 7:4: F0 is bit 0 of the field (R70). -/
def fieldFlags (w : CmdWord) : BitVec 4 := w.extractLsb' 4 4

/-- Bits 15:8 (R70). -/
def fieldRsv (w : CmdWord) : BitVec 8 := w.extractLsb' 8 8

/-- Why a word is ILLEGAL (R73, R74, R204). The CPP records none of this (R204): the names are the decoder's. -/
inductive IllegalReason where
  | reservedBits    -- RSV is not 0 (R73)
  | reservedOpcode  -- OP is 0x8 to 0xF (R74)
  | unassignedFlag  -- a flag R72 does not assign, F3 among them, is set (R73)
  deriving DecidableEq, Repr

/-- "The decoder is a total function from a 16-bit word w to a command or ILLEGAL" (R76). -/
inductive Decoded where
  | command (i : Instr)
  | illegal (why : IllegalReason)
  deriving DecidableEq, Repr

/-- A command that assigns no flag (R72, first row). -/
def decodeBare (f : BitVec 4) (i : Instr) : Decoded :=
  if f = 0#4 then .command i else .illegal .unassignedFlag

/-- A sample command: F0 is RDERR, F1 to F3 must be 0 (R72, last row). -/
def decodeSample (f : BitVec 4) (i : Bool → Instr) : Decoded :=
  if f.extractLsb' 1 3 = 0#3 then .command (i (f.getLsbD 0)) else .illegal .unassignedFlag

/-- LOAD: F0, F1, F2 are TPERR, HXERR, H1ERR and F3 must be 0 (R72, second row). -/
def decodeLoad (f : BitVec 4) : Decoded :=
  if f.getLsbD 3 = false then .command (.load (f.getLsbD 0) (f.getLsbD 1) (f.getLsbD 2))
  else .illegal .unassignedFlag

/-- `decode(w)` of R76. -/
def decode (w : CmdWord) : Decoded :=
  if fieldRsv w ≠ 0#8 then .illegal .reservedBits
  else
    match (fieldOp w).toNat with
    | 0 => decodeBare (fieldFlags w) .nop
    | 1 => decodeLoad (fieldFlags w)
    | 2 => decodeSample (fieldFlags w) .conv
    | 3 => decodeSample (fieldFlags w) .compt
    | 4 => decodeSample (fieldFlags w) .compp
    | 5 => decodeSample (fieldFlags w) .comph
    | 6 => decodeBare (fieldFlags w) .clrerr
    | 7 => decodeBare (fieldFlags w) .unload
    | _ => .illegal .reservedOpcode

/-- The OP value of R71. -/
def encodeOp : Instr → BitVec 4
  | .nop => 0x0#4
  | .load _ _ _ => 0x1#4
  | .conv _ => 0x2#4
  | .compt _ => 0x3#4
  | .compp _ => 0x4#4
  | .comph _ => 0x5#4
  | .clrerr => 0x6#4
  | .unload => 0x7#4

/-- F3, F2, F1, F0 as R72 assigns them. -/
def encodeFlags : Instr → BitVec 4
  | .nop => 0#4
  | .load tperr hxerr h1err =>
      0#1 ++ BitVec.ofBool h1err ++ BitVec.ofBool hxerr ++ BitVec.ofBool tperr
  | .conv rderr => 0#3 ++ BitVec.ofBool rderr
  | .compt rderr => 0#3 ++ BitVec.ofBool rderr
  | .compp rderr => 0#3 ++ BitVec.ofBool rderr
  | .comph rderr => 0#3 ++ BitVec.ofBool rderr
  | .clrerr => 0#4
  | .unload => 0#4

/-- The word of a command: RSV = 0, then the flags, then OP (R70). -/
def encode (i : Instr) : CmdWord := 0#8 ++ encodeFlags i ++ encodeOp i

/-- The host's question about one row of spec/opcode_table.json: the instruction the decoder reads from an instruction
whose bits are `w`, every bit from bit `nbits` on being 0. A command is one 16-bit word (R70).
DESIGN CHOICE (log 15), safe. -/
def decodeTableWord (nbits w : Nat) : Option Instr :=
  match decode (BitVec.ofNat 16 (w % 2 ^ nbits)) with
  | .command i => some i
  | .illegal _ => none

end Sys2Proof
end

