-- ==== Sys2Proof/Config.lean ====
section
/-! DEFINITION. The five named parameters of 00_scope.md R6: four with a value the spec decides, one left OPEN. -/

namespace Sys2Proof

/-- Parameter `OVF` (R6, decision D7): what becomes of a result its width cannot hold. -/
inductive Ovf where
  | wrap   -- reduced modulo 2^N into the signed range
  | fault  -- the command raises OVERFLOW
  deriving DecidableEq, Repr, Inhabited

/-- Parameter `HUM_OUT_SHIFT` (R6, decision D10): 12 or 0. -/
inductive HumOutShift where
  | twelve
  | zero
  deriving DecidableEq, Repr, Inhabited

/-- Parameter `FLOAT_FMT` (R6, decision D12): the format of the host's views. -/
inductive FloatFmt where
  | binary32
  | binary64
  deriving DecidableEq, Repr, Inhabited

/-- The four parameters the block's results depend on (00_scope.md R6). One machine has one fixed set of them. -/
structure Params where
  p1Signed    : Bool
  h45Sext     : Bool
  ovf         : Ovf
  humOutShift : HumOutShift
  deriving DecidableEq, Repr, Inhabited

/-- The column "this spec" of R6. -/
def Config.params : Params :=
  { p1Signed := false, h45Sext := false, ovf := .wrap, humOutShift := .twelve }

/-- `FLOAT_FMT` is OPEN (R6, R157, D12): a constant of the machine with no known value. DESIGN CHOICE (log 6), safe. -/
opaque Config.floatFmt : FloatFmt

end Sys2Proof
end

