-- ==== Sys2Proof/Machine/State.lean ====
section
/-! DEFINITION. The state of the CPP (10_state.md), the two image ports (20_memory.md) and the host's remaining
actions, all as plain data. -/

namespace Sys2Proof.Machine

/-- The names of the 18 coefficient registers (10_state.md R22). -/
inductive CoefReg where
  | t1 | t2 | t3
  | p1 | p2 | p3 | p4 | p5 | p6 | p7 | p8 | p9
  | h1 | h2 | h3 | h4 | h5 | h6
  deriving DecidableEq, Repr

/-- The registers of the output read port (R28). -/
inductive OutReg where
  | tfine | tOut | pOut | hOut
  deriving DecidableEq, Repr

/-- What the host may read: STATUS (R29), the coefficient read port (R24), the output read port (R28). -/
inductive ReadPort where
  | status
  | coef (r : CoefReg)
  | out (r : OutReg)
  deriving DecidableEq, Repr

/-- The coefficient register file: the storage widths of R22. What integer a register's bits stand for is
`CoefFile.value` (signedness of R22). DEDUCED (log 10), safe. -/
structure CoefFile where
  t1 : BitVec 16
  t2 : BitVec 16
  t3 : BitVec 16
  p1 : BitVec 16
  p2 : BitVec 16
  p3 : BitVec 16
  p4 : BitVec 16
  p5 : BitVec 16
  p6 : BitVec 16
  p7 : BitVec 16
  p8 : BitVec 16
  p9 : BitVec 16
  h1 : BitVec 8
  h2 : BitVec 16
  h3 : BitVec 8
  h4 : BitVec 16
  h5 : BitVec 16
  h6 : BitVec 8
  deriving DecidableEq, Repr

/-- STATUS, field by field (R29). Bits 15:13 are hard-wired to 0 (R37) and have no storage;
`Status.toWord` gives the register as the host reads it. DEDUCED (log 9), safe. -/
structure Status where
  loaded : Bool      -- bit 0, R30
  tfv    : Bool      -- bit 1, R31
  tv     : Bool      -- bit 2, R32
  pv     : Bool      -- bit 3, R32
  hv     : Bool      -- bit 4, R32
  pz     : Bool      -- bit 5, R33
  hlo    : Bool      -- bit 6, R34
  hhi    : Bool      -- bit 7, R34
  err    : BitVec 4  -- bits 11:8, R35
  fault  : Bool      -- bit 12, R36
  deriving DecidableEq, Repr

/-- What the host can do to the CPP between two commands. -/
inductive HostAction where
  /-- Put a 32-byte image on the coefficient port (R50, R51, R78). -/
  | coefImage (img : CoefImage)
  /-- Put an 8-byte image on the sample port (R50, R52, R78). -/
  | sampleImage (img : SampleImage)
  /-- Issue one command word, legal or not (R70). -/
  | command (w : CmdWord)
  /-- Read STATUS or a read port (R24, R28, R29). -/
  | read (p : ReadPort)
  /-- Assert the reset input (R230). -/
  | reset
  deriving DecidableEq, Repr

/-- The machine. `params` and `host` are the model's own fields (logs 5 and 1); the rest is the spec's. -/
structure State where
  params     : Params            -- R6: fixed for one machine
  coef       : CoefFile          -- R22
  tfine      : BitVec 32         -- R26, signed
  tOut       : BitVec 32         -- R27, signed
  pOut       : BitVec 32         -- R27, unsigned
  hOut       : BitVec 32         -- R27, unsigned
  status     : Status            -- R29
  coefPort   : CoefImage         -- R50, R51
  samplePort : SampleImage       -- R50, R52
  host       : List HostAction   -- R20: the host's command sequence, next action first
  deriving DecidableEq, Repr

/-- Why a step stops. -/
inductive Fault where
  /-- Raised by a host read of a register that holds no value: a coefficient while LOADED = 0 (R24), or TFINE, T_OUT,
  P_OUT, H_OUT while its valid bit is 0 (R28). "A model treats such a read as a fault of the reading agent". No command
  raises it: the CPP's own faults set STATUS and go on (R208). Safe (log 8). -/
  | noValueRead (p : ReadPort)
  deriving DecidableEq, Repr

/-- Why the model gives no meaning. -/
inductive Refusal where
  /-- Kept for a command that had no meaning yet; no arm of `exec` raises it. Safe. -/
  | notModelled (mnemonic : String)
  deriving DecidableEq, Repr

/-- The coefficient registers after reset: the spec says they hold no value (R25, R42); the model names 0.
DESIGN CHOICE (log 2), unsafe: no read port shows it while LOADED = 0. -/
def CoefFile.zero : CoefFile :=
  { t1 := 0, t2 := 0, t3 := 0, p1 := 0, p2 := 0, p3 := 0, p4 := 0, p5 := 0, p6 := 0, p7 := 0, p8 := 0, p9 := 0,
    h1 := 0, h2 := 0, h3 := 0, h4 := 0, h5 := 0, h6 := 0 }

/-- STATUS = 0x0000 (R42). -/
def Status.zero : Status :=
  { loaded := false, tfv := false, tv := false, pv := false, hv := false, pz := false, hlo := false, hhi := false,
    err := 0, fault := false }

/-- The machine right after reset (10_state.md R42, 70_reset_and_hazards.md R230), with the parameter values R6 decides.
TFINE and the output registers hold no value there: the model names 0 (log 2, DESIGN CHOICE, unsafe). The image ports are
inputs no rule gives a value for before the host drives them: 0 (log 3, DESIGN CHOICE, unsafe). The host has issued
nothing (log 1). -/
def State.reset : State :=
  { params := Config.params, coef := CoefFile.zero, tfine := 0, tOut := 0, pOut := 0, hOut := 0,
    status := Status.zero, coefPort := 0, samplePort := 0, host := [] }

end Sys2Proof.Machine
end

