-- ==== Sys2Proof/Machine/Flags.lean ====
section
/-! DEFINITION. STATUS: the register as the host reads it (10_state.md R29, R37), the error codes of
60_exceptions.md R201, and every field update the command rules make (R30 to R36). -/

namespace Sys2Proof.Machine

/-- The codes of R201 by name. -/
inductive ErrorName where
  | none
  | busUnavailable
  | noResponseFromIdentityRead
  | identityMismatch
  | resetNotAcknowledged
  | coefficientTableReadFailure
  | humidityCoefficientReadFailure
  | configurationWriteFailure
  | measurementTriggerFailure
  | genericBusReadFailure
  | genericBusWriteFailure
  | notLoaded
  | tfineInvalid
  | illegal
  | overflow
  | reserved
  deriving DecidableEq, Repr

/-- The column "code" of R201. -/
def ErrorName.code : ErrorName → BitVec 4
  | .none => 0
  | .busUnavailable => 1
  | .noResponseFromIdentityRead => 2
  | .identityMismatch => 3
  | .resetNotAcknowledged => 4
  | .coefficientTableReadFailure => 5
  | .humidityCoefficientReadFailure => 6
  | .configurationWriteFailure => 7
  | .measurementTriggerFailure => 8
  | .genericBusReadFailure => 9
  | .genericBusWriteFailure => 10
  | .notLoaded => 11
  | .tfineInvalid => 12
  | .illegal => 13
  | .overflow => 14
  | .reserved => 15

/-- The column "class" of R201. -/
inductive ErrorClass where
  | noError
  | hostError
  | reportedError
  | fault
  | reserved
  deriving DecidableEq, Repr

/-- The column "class" of R201. -/
def ErrorName.errorClass : ErrorName → ErrorClass
  | .none => .noError
  | .busUnavailable => .hostError
  | .noResponseFromIdentityRead => .hostError
  | .identityMismatch => .hostError
  | .resetNotAcknowledged => .hostError
  | .coefficientTableReadFailure => .reportedError
  | .humidityCoefficientReadFailure => .reportedError
  | .configurationWriteFailure => .hostError
  | .measurementTriggerFailure => .hostError
  | .genericBusReadFailure => .reportedError
  | .genericBusWriteFailure => .hostError
  | .notLoaded => .fault
  | .tfineInvalid => .fault
  | .illegal => .fault
  | .overflow => .fault
  | .reserved => .reserved

/-- The 16-bit register as the host reads it: the places of R29, bits 15:13 hard-wired to 0 (R37). -/
def Status.toWord (st : Status) : BitVec 16 :=
  0#3 ++ BitVec.ofBool st.fault ++ st.err ++ BitVec.ofBool st.hhi ++ BitVec.ofBool st.hlo ++ BitVec.ofBool st.pz
    ++ BitVec.ofBool st.hv ++ BitVec.ofBool st.pv ++ BitVec.ofBool st.tv ++ BitVec.ofBool st.tfv
    ++ BitVec.ofBool st.loaded

/-- The fields of a register value (R29). -/
def Status.ofWord (w : BitVec 16) : Status :=
  { loaded := w.getLsbD 0, tfv := w.getLsbD 1, tv := w.getLsbD 2, pv := w.getLsbD 3, hv := w.getLsbD 4,
    pz := w.getLsbD 5, hlo := w.getLsbD 6, hhi := w.getLsbD 7, err := w.extractLsb' 8 4, fault := w.getLsbD 12 }

/-- The writes of the fault action (R208): ERR and the sticky FAULT. -/
def Status.faulted (code : BitVec 4) (st : Status) : Status := { st with err := code, fault := true }

/-- The write of the reported-error action (R206): ERR alone. -/
def Status.errored (code : BitVec 4) (st : Status) : Status := { st with err := code }

/-- CLRERR (R191): ERR alone; FAULT stays (R36). -/
def Status.errCleared (st : Status) : Status := { st with err := ErrorName.none.code }

/-- A successful LOAD (R100): LOADED set, TFV cleared. -/
def Status.coefLoaded (st : Status) : Status := { st with loaded := true, tfv := false }

/-- A failed LOAD (R100) and UNLOAD (R192): LOADED and TFV cleared; nothing else. -/
def Status.coefInvalidated (st : Status) : Status := { st with loaded := false, tfv := false }

/-- The temperature results (R152): TFV and TV set. -/
def Status.temperatureDone (st : Status) : Status := { st with tfv := true, tv := true }

/-- The pressure result (R153): PZ written, PV set. -/
def Status.pressureDone (guard : Bool) (st : Status) : Status := { st with pz := guard, pv := true }

/-- The humidity result (R154): HLO and HHI written, HV set. -/
def Status.humidityDone (lo hi : Bool) (st : Status) : Status := { st with hlo := lo, hhi := hi, hv := true }

end Sys2Proof.Machine
end

