-- ==== Sys2Proof/Machine/Arith.lean ====
section
/-! DEFINITION. The integer notation of 00_scope.md R9 and the arithmetic laws of 42_compensation.md R140 to R143.
Every value of the pseudocode is a mathematical integer; the widths are explicit here and nowhere else. -/

namespace Sys2Proof.Machine

/-- `sext_N(v)`: the N-bit pattern `v` read as a two's-complement integer (R9). -/
def sext (n : Nat) (v : Nat) : Int :=
  if 2 * v < 2 ^ n then (v : Int) else (v : Int) - 2 ^ n

/-- `wN(v)` is `sext_N(v mod 2^N)` (R9): the wrap to a signed width. -/
def wrap (n : Nat) (v : Int) : Int := sext n (v % 2 ^ n).toNat

/-- The result of an operation marked `wN`, held at that width (R140): with `OVF` = wrap it is reduced modulo 2^N into
the signed range; with `OVF` = fault a result that differs from that has no value, and the command raises OVERFLOW.
Which operations count is DEDUCED (log 12), unsafe for `OVF` = fault. -/
def held (ovf : Ovf) (n : Nat) (v : Int) : Option Int :=
  match ovf with
  | .wrap => some (wrap n v)
  | .fault => if wrap n v = v then some v else none

/-- `w32(v)` of the pseudocode (R9, R140). -/
def w32 (ovf : Ovf) (v : Int) : Option Int := held ovf 32 v

/-- `w64(v)` of the pseudocode (R9, R140). -/
def w64 (ovf : Ovf) (v : Int) : Option Int := held ovf 64 v

/-- `u32(v)`: `v mod 2^32`, in [0, 2^32) (R9). It is no `wN`, so it never overflows (R148). -/
def u32 (v : Int) : Int := v % 2 ^ 32

/-- `a >> k`: floor(a / 2^k) (R9, R141). Lean's `/` on `Int` floors for a positive divisor. -/
def asr (a : Int) (k : Nat) : Int := a / 2 ^ k

/-- `a << k`: a × 2^k, exact; the enclosing `wN` holds it at a width (R9, R141). -/
def shl (a : Int) (k : Nat) : Int := a * 2 ^ k

/-- `tdiv(a, b)`: the quotient truncated toward zero (R9, R142). No rule uses it with b = 0 (R147). -/
def tdiv (a b : Int) : Int := Int.tdiv a b

/-- `clamp(v, lo, hi)` (R9). -/
def clamp (v lo hi : Int) : Int := if v < lo then lo else if v > hi then hi else v

end Sys2Proof.Machine
end

