-- ==== Sys2Proof/Machine/Operands.lean ====
section
/-! DEFINITION. What a command takes from its image: the image reads of 00_scope.md R10, the coefficient field decoder
and bit-unpacker of 41_loader_unpacker.md R101 to R108, and the raw-sample extractor of R115. -/

namespace Sys2Proof.Machine

/-- Byte `k` of an image: port bits [8k+7:8k] (20_memory.md R51, R52). -/
def imageByte {n : Nat} (img : BitVec n) (k : Nat) : Nat := (img.extractLsb' (8 * k) 8).toNat

/-- `MemRead(addr, n)`: n bytes from offset `addr`, little-endian (R10, R53). -/
def memRead {b : Nat} (img : BitVec b) (addr : Nat) : Nat → Nat
  | 0 => 0
  | n + 1 => memRead img addr n + imageByte img (addr + n) * 2 ^ (8 * n)

/-- `MemReadBE(addr, n)`: n bytes from offset `addr`, big-endian (R10, R54). -/
def memReadBE {b : Nat} (img : BitVec b) (addr : Nat) : Nat → Nat
  | 0 => 0
  | n + 1 => memReadBE img addr n * 2 ^ 8 + imageByte img (addr + n)

/-- `byte[3:0]`: the low nibble (R8). -/
def lowNibble (b : Nat) : Nat := b % 16

/-- `byte[7:4]`: the high nibble (R8). -/
def highNibble (b : Nat) : Nat := b / 16 % 16

/-- The kinds of R101. -/
inductive FieldKind where
  | u16
  | s16
  deriving DecidableEq, Repr

/-- `Field16(word, kind)` (R102). -/
def field16 (word : Nat) : FieldKind → Int
  | .u16 => (word : Int)
  | .s16 => sext 16 word

/-- P1's kind (R101, parameter `P1_SIGNED`). -/
def p1Kind (p : Params) : FieldKind := if p.p1Signed then .s16 else .u16

/-- `Unpack12(hi8, lo4)` (R106, parameter `H45_SEXT`). -/
def unpack12 (h45Sext : Bool) (hi8 lo4 : Nat) : Int :=
  if h45Sext then sext 8 hi8 * 16 + (lo4 : Int) else (hi8 : Int) * 16 + (lo4 : Int)

/-- The value a successful LOAD gives to each coefficient register, from the coefficient image: the rows of R101 and
the rules R103 to R108, at the offsets of 20_memory.md R51. -/
def loadedValue (p : Params) (img : CoefImage) : CoefReg → Int
  | .t1 => field16 (memRead img 0 2) .u16
  | .t2 => field16 (memRead img 2 2) .s16
  | .t3 => field16 (memRead img 4 2) .s16
  | .p1 => field16 (memRead img 6 2) (p1Kind p)
  | .p2 => field16 (memRead img 8 2) .s16
  | .p3 => field16 (memRead img 10 2) .s16
  | .p4 => field16 (memRead img 12 2) .s16
  | .p5 => field16 (memRead img 14 2) .s16
  | .p6 => field16 (memRead img 16 2) .s16
  | .p7 => field16 (memRead img 18 2) .s16
  | .p8 => field16 (memRead img 20 2) .s16
  | .p9 => field16 (memRead img 22 2) .s16
  | .h1 => (memRead img 24 1 : Int)
  | .h2 => sext 16 (memRead img 25 2)
  | .h3 => (memRead img 27 1 : Int)
  | .h4 => unpack12 p.h45Sext (memRead img 28 1) (lowNibble (memRead img 29 1))
  | .h5 => unpack12 p.h45Sext (memRead img 30 1) (highNibble (memRead img 29 1))
  | .h6 => sext 8 (memRead img 31 1)

/-- `RawSample()`'s results (R115). -/
structure RawSample where
  adcP : Int
  adcT : Int
  adcH : Int
  deriving DecidableEq, Repr

/-- `RawSample()` (R115): the raw-sample extractor. -/
def rawSample (img : SampleImage) : RawSample :=
  { adcP := asr (memReadBE img 0 3) 4
    adcT := asr (memReadBE img 3 3) 4
    adcH := (memReadBE img 6 2 : Int) }

/-- The integer a coefficient register holds: its bits read with the signedness of 10_state.md R22. -/
def CoefFile.value (p : Params) (c : CoefFile) : CoefReg → Int
  | .t1 => (c.t1.toNat : Int)
  | .t2 => c.t2.toInt
  | .t3 => c.t3.toInt
  | .p1 => if p.p1Signed then c.p1.toInt else (c.p1.toNat : Int)
  | .p2 => c.p2.toInt
  | .p3 => c.p3.toInt
  | .p4 => c.p4.toInt
  | .p5 => c.p5.toInt
  | .p6 => c.p6.toInt
  | .p7 => c.p7.toInt
  | .p8 => c.p8.toInt
  | .p9 => c.p9.toInt
  | .h1 => (c.h1.toNat : Int)
  | .h2 => c.h2.toInt
  | .h3 => (c.h3.toNat : Int)
  | .h4 => c.h4.toInt
  | .h5 => c.h5.toInt
  | .h6 => c.h6.toInt

/-- The register file that holds the given integers, each at its register's width (R22). -/
def CoefFile.ofValues (v : CoefReg → Int) : CoefFile :=
  { t1 := BitVec.ofInt 16 (v .t1), t2 := BitVec.ofInt 16 (v .t2), t3 := BitVec.ofInt 16 (v .t3),
    p1 := BitVec.ofInt 16 (v .p1), p2 := BitVec.ofInt 16 (v .p2), p3 := BitVec.ofInt 16 (v .p3),
    p4 := BitVec.ofInt 16 (v .p4), p5 := BitVec.ofInt 16 (v .p5), p6 := BitVec.ofInt 16 (v .p6),
    p7 := BitVec.ofInt 16 (v .p7), p8 := BitVec.ofInt 16 (v .p8), p9 := BitVec.ofInt 16 (v .p9),
    h1 := BitVec.ofInt 8 (v .h1), h2 := BitVec.ofInt 16 (v .h2), h3 := BitVec.ofInt 8 (v .h3),
    h4 := BitVec.ofInt 16 (v .h4), h5 := BitVec.ofInt 16 (v .h5), h6 := BitVec.ofInt 8 (v .h6) }

end Sys2Proof.Machine
end

