-- ==== Sys2Proof/Machine/Ops.lean ====
section
/-! DEFINITION. The named operations over the state: register reads and writes (00_scope.md R10, 10_state.md), the
reported-error action (60_exceptions.md R206), the fault action (R208) and the order of outcomes of a sample command
(R209). No command returns from a fault, because a fault transfers nothing (R210): beside the fault action stand the two
things that clear what it wrote, `State.withErrCleared` (CLRERR) and `resetInput` (R230). -/

namespace Sys2Proof.Machine

/-- `x[STATUS] <- …`. -/
def State.withStatus (s : State) (st : Status) : State := { s with status := st }

/-- Writes the whole coefficient file (R23: all 18 together). -/
def State.withCoef (s : State) (c : CoefFile) : State := { s with coef := c }

/-- `x[TFINE] <- v`, at its 32 bits (R26). -/
def State.withTfine (s : State) (v : Int) : State := { s with tfine := BitVec.ofInt 32 v }

/-- `x[T_OUT] <- v`, at its 32 bits (R27). -/
def State.withTOut (s : State) (v : Int) : State := { s with tOut := BitVec.ofInt 32 v }

/-- `x[P_OUT] <- v`, at its 32 bits (R27). -/
def State.withPOut (s : State) (v : Int) : State := { s with pOut := BitVec.ofInt 32 v }

/-- `x[H_OUT] <- v`, at its 32 bits (R27). -/
def State.withHOut (s : State) (v : Int) : State := { s with hOut := BitVec.ofInt 32 v }

/-- The host drives the coefficient port (R50). -/
def State.withCoefPort (s : State) (img : CoefImage) : State := { s with coefPort := img }

/-- The host drives the sample port (R50). -/
def State.withSamplePort (s : State) (img : SampleImage) : State := { s with samplePort := img }

/-- The host's remaining actions (log 1). -/
def State.withHost (s : State) (h : List HostAction) : State := { s with host := h }

/-- `x[NAME]` for a coefficient register (R10, R22). -/
def State.x (s : State) (r : CoefReg) : Int := s.coef.value s.params r

/-- `x[NAME]` for TFINE (R26) and the output registers (R27), with their signedness. -/
def State.outValue (s : State) : OutReg → Int
  | .tfine => s.tfine.toInt
  | .tOut => s.tOut.toInt
  | .pOut => (s.pOut.toNat : Int)
  | .hOut => (s.hOut.toNat : Int)

/-- `raise Fault(code)` (R208): ERR and FAULT, and nothing else. -/
def raiseFault (e : ErrorName) (s : State) : State := s.withStatus (s.status.faulted e.code)

/-- `report Error(code)` (R206): ERR alone. -/
def reportError (e : ErrorName) (s : State) : State := s.withStatus (s.status.errored e.code)

/-- CLRERR's write (R191). -/
def State.withErrCleared (s : State) : State := s.withStatus s.status.errCleared

/-- LOADED and TFV cleared: a failed LOAD (R100), UNLOAD (R192). -/
def invalidateCoef (s : State) : State := s.withStatus s.status.coefInvalidated

/-- The reset input (R230): every piece of the CPP's state at the values of R42. The parameters are fixed (log 5); the
ports and the host's remaining actions are the host's, not the CPP's (log 4, DEDUCED). -/
def resetInput (s : State) : State :=
  { State.reset with params := s.params, coefPort := s.coefPort, samplePort := s.samplePort, host := s.host }

/-- The outcomes of CONV, COMPT, COMPP and COMPH in the order of R209, items 2 to 5. `body` is the computation with its
writes, `none` when it overflows; `needsTfine` is set for COMPP and COMPH. -/
def sampleCommand (needsTfine rderr : Bool) (body : State → Option State) (s : State) : State :=
  if s.status.loaded = false then raiseFault .notLoaded s
  else if needsTfine = true ∧ s.status.tfv = false then raiseFault .tfineInvalid s
  else if rderr = true then reportError .genericBusReadFailure s
  else
    match body s with
    | some t => t
    | none => raiseFault .overflow s

end Sys2Proof.Machine
end

