-- ==== Sys2Proof/Machine/Control.lean ====
section
/-! DEFINITION. The control commands NOP, CLRERR and UNLOAD (43_control.md). -/

namespace Sys2Proof.Machine

/-- NOP (R190): no state changes. -/
def execNop (s : State) : Host.Outcome State Fault Refusal := .next s

/-- CLRERR (R191): ERR := 0. -/
def execClrerr (s : State) : Host.Outcome State Fault Refusal := .next s.withErrCleared

/-- UNLOAD (R192): LOADED := 0, TFV := 0. -/
def execUnload (s : State) : Host.Outcome State Fault Refusal := .next (invalidateCoef s)

end Sys2Proof.Machine
end

