-- ==== Sys2Proof/Machine/Pipeline.lean ====
section
/-! DEFINITION. The fixed-point pipelines of 42_compensation.md: fine temperature and temperature (R144, R145), pressure
(R146 to R148) and humidity (R149 to R151), operation by operation in the pseudocode's order. `x` gives the coefficient
registers, as `x[NAME]` does there; `none` is an OVERFLOW, possible only with `OVF` = fault (R140, R205). The formulas are
the spec's general knowledge (93_implementation_defined.md G1): UNVERIFIED against the chip (log 7), unsafe. -/

namespace Sys2Proof.Machine

/-- `FineTemp(adc_T)` (R144). -/
def fineTemp (ovf : Ovf) (x : CoefReg → Int) (adcT : Int) : Option Int := do
  let a ← w32 ovf (asr adcT 3 - (← w32 ovf (shl (x .t1) 1)))
  let var1 := asr (← w32 ovf (a * x .t2)) 11
  let d ← w32 ovf (asr adcT 4 - x .t1)
  let sq ← w32 ovf (d * d)
  let var2 := asr (← w32 ovf (asr sq 12 * x .t3)) 14
  w32 ovf (var1 + var2)

/-- `TempOut(t_fine)` (R145), in units of 0.01 °C. -/
def tempOut (ovf : Ovf) (tFine : Int) : Option Int := do
  return asr (← w32 ovf ((← w32 ovf (tFine * 5)) + 128)) 8

/-- The terms of R146 before the guard: `v2` and the denominator term `v1`. -/
structure PressureTerms where
  v2    : Int
  denom : Int
  deriving DecidableEq, Repr

/-- The constant 2^47 of R146. -/
def twoPow47 : Int := 140737488355328

/-- R146 down to the denominator term. -/
def pressureTerms (ovf : Ovf) (x : CoefReg → Int) (tFine : Int) : Option PressureTerms := do
  let v1 ← w64 ovf (tFine - 128000)
  let v2 ← w64 ovf ((← w64 ovf (v1 * v1)) * x .p6)
  let v2 ← w64 ovf (v2 + (← w64 ovf (shl (← w64 ovf (v1 * x .p5)) 17)))
  let v2 ← w64 ovf (v2 + (← w64 ovf (shl (x .p4) 35)))
  let cube := asr (← w64 ovf ((← w64 ovf (v1 * v1)) * x .p3)) 8
  let v1 ← w64 ovf (cube + (← w64 ovf (shl (← w64 ovf (v1 * x .p2)) 12)))
  let denom := asr (← w64 ovf ((← w64 ovf (twoPow47 + v1)) * x .p1)) 33
  return { v2 := v2, denom := denom }

/-- R146 from the numerator on, for a denominator term that is not 0, down to the final 64-bit `p`. -/
def pressureQuotient (ovf : Ovf) (x : CoefReg → Int) (adcP : Int) (t : PressureTerms) : Option Int := do
  let p ← w64 ovf (1048576 - adcP)
  let n ← w64 ovf ((← w64 ovf ((← w64 ovf (shl p 31)) - t.v2)) * 3125)
  let p ← w64 ovf (tdiv n t.denom)
  let v1 := asr (← w64 ovf ((← w64 ovf (x .p9 * asr p 13)) * asr p 13)) 25
  let v2 := asr (← w64 ovf (x .p8 * p)) 19
  let sum := asr (← w64 ovf ((← w64 ovf (p + v1)) + v2)) 8
  w64 ovf (sum + (← w64 ovf (shl (x .p7) 4)))

/-- `Pressure(adc_P, t_fine)` (R146): P_OUT (R148) and the guard (R147). -/
def pressure (ovf : Ovf) (x : CoefReg → Int) (adcP tFine : Int) : Option (Int × Bool) := do
  let t ← pressureTerms ovf x tFine
  if t.denom = 0 then
    some (0, true)
  else
    let p ← pressureQuotient ovf x adcP t
    some (u32 p, false)

/-- R149 down to the unclamped intermediate. -/
def humidityUnclamped (ovf : Ovf) (x : CoefReg → Int) (adcH tFine : Int) : Option Int := do
  let v ← w32 ovf (tFine - 76800)
  let raw ← w32 ovf ((← w32 ovf (shl adcH 14)) - (← w32 ovf (shl (x .h4) 20)))
  let a ← w32 ovf (raw - (← w32 ovf (x .h5 * v)))
  let capA := asr (← w32 ovf (a + 16384)) 15
  let capX := asr (← w32 ovf (v * x .h6)) 10
  let capY ← w32 ovf (asr (← w32 ovf (v * x .h3)) 11 + 32768)
  let capZ := asr (← w32 ovf (capX * capY)) 10
  let capW ← w32 ovf (capZ + 2097152)
  let capB := asr (← w32 ovf ((← w32 ovf (capW * x .h2)) + 8192)) 14
  let v ← w32 ovf (capA * capB)
  let s := asr v 15
  let q := asr (← w32 ovf (asr (← w32 ovf (s * s)) 7 * x .h1)) 4
  w32 ovf (v - q)

/-- The upper clamp bound of R150. -/
def humidityMax : Int := 419430400

/-- The shift of R151 (parameter `HUM_OUT_SHIFT`, R6). -/
def humOutShiftAmount : HumOutShift → Nat
  | .twelve => 12
  | .zero => 0

/-- What `Humidity` returns (R149): H_OUT (R151) and the clamp outcomes (R150). -/
structure HumidityResult where
  out : Int
  lo  : Bool
  hi  : Bool
  deriving DecidableEq, Repr

/-- The clamp and the output shift (R150, R151). -/
def humidityFinish (shift : HumOutShift) (v : Int) : HumidityResult :=
  { out := asr (clamp v 0 humidityMax) (humOutShiftAmount shift)
    lo := decide (v < 0)
    hi := decide (v > humidityMax) }

/-- `Humidity(adc_H, t_fine)` (R149). -/
def humidity (p : Params) (x : CoefReg → Int) (adcH tFine : Int) : Option HumidityResult := do
  let v ← humidityUnclamped p.ovf x adcH tFine
  return humidityFinish p.humOutShift v

end Sys2Proof.Machine
end

