-- ==== Sys2Proof/Machine/Convert.lean ====
section
/-! DEFINITION. The sample commands COMPT, COMPP, COMPH and CONV (42_compensation.md R152 to R155). -/

namespace Sys2Proof.Machine

/-- The writes of a temperature result (R152). -/
def writeTemperature (tf t : Int) (s : State) : State :=
  ((s.withTfine tf).withTOut t).withStatus s.status.temperatureDone

/-- The writes of a pressure result (R153). -/
def writePressure (p : Int) (g : Bool) (s : State) : State :=
  (s.withPOut p).withStatus (s.status.pressureDone g)

/-- The writes of a humidity result (R154). -/
def writeHumidity (h : HumidityResult) (s : State) : State :=
  (s.withHOut h.out).withStatus (s.status.humidityDone h.lo h.hi)

/-- COMPT's computation (R152). -/
def comptBody (s : State) : Option State := do
  let tf ← fineTemp s.params.ovf s.x (rawSample s.samplePort).adcT
  let t ← tempOut s.params.ovf tf
  return writeTemperature tf t s

/-- COMPP's computation (R153), from TFINE, whatever sample that came from (R236, log 16, DEDUCED). -/
def comppBody (s : State) : Option State := do
  let r ← pressure s.params.ovf s.x (rawSample s.samplePort).adcP (s.outValue .tfine)
  return writePressure r.1 r.2 s

/-- COMPH's computation (R154), from TFINE. -/
def comphBody (s : State) : Option State := do
  let h ← humidity s.params s.x (rawSample s.samplePort).adcH (s.outValue .tfine)
  return writeHumidity h s

/-- CONV's computation (R155): pressure and humidity use the t_fine just computed; all writes together (R59). -/
def convBody (s : State) : Option State := do
  let raw := rawSample s.samplePort
  let tf ← fineTemp s.params.ovf s.x raw.adcT
  let t ← tempOut s.params.ovf tf
  let r ← pressure s.params.ovf s.x raw.adcP tf
  let h ← humidity s.params s.x raw.adcH tf
  return writeHumidity h (writePressure r.1 r.2 (writeTemperature tf t s))

/-- COMPT (R152). -/
def execCompt (rderr : Bool) (s : State) : Host.Outcome State Fault Refusal :=
  .next (sampleCommand false rderr comptBody s)

/-- COMPP (R153). -/
def execCompp (rderr : Bool) (s : State) : Host.Outcome State Fault Refusal :=
  .next (sampleCommand true rderr comppBody s)

/-- COMPH (R154). -/
def execComph (rderr : Bool) (s : State) : Host.Outcome State Fault Refusal :=
  .next (sampleCommand true rderr comphBody s)

/-- CONV (R155). It needs no TFV, because it computes t_fine itself. -/
def execConv (rderr : Bool) (s : State) : Host.Outcome State Fault Refusal :=
  .next (sampleCommand false rderr convBody s)

end Sys2Proof.Machine
end

