-- ==== Sys2Proof/Machine/Loader.lean ====
section
/-! DEFINITION. LOAD (41_loader_unpacker.md R100). -/

namespace Sys2Proof.Machine

/-- A failed LOAD (R100): LOADED and TFV cleared, the code in ERR, the registers' contents kept. -/
def failLoad (e : ErrorName) (s : State) : State := reportError e (invalidateCoef s)

/-- A successful LOAD (R100): all 18 registers from the coefficient image, LOADED set, TFV cleared, ERR kept (R35). -/
def loadAll (s : State) : State :=
  (s.withCoef (CoefFile.ofValues (loadedValue s.params s.coefPort))).withStatus s.status.coefLoaded

/-- LOAD (R100), with the failure precedence of R110. -/
def execLoad (tperr hxerr h1err : Bool) (s : State) : Host.Outcome State Fault Refusal :=
  if tperr = true then .next (failLoad .coefficientTableReadFailure s)
  else if hxerr = true ∨ h1err = true then .next (failLoad .humidityCoefficientReadFailure s)
  else .next (loadAll s)

end Sys2Proof.Machine
end

