-- ==== Sys2Proof/Machine/Dispatch.lean ====
section
/-! DEFINITION. One arm per command, each one call of its meaning. -/

namespace Sys2Proof.Machine

def exec (i : Instr) (s : State) : Host.Outcome State Fault Refusal :=
  match i with
  | .nop => Sys2Proof.Machine.execNop s
  | .load tperr hxerr h1err => Sys2Proof.Machine.execLoad tperr hxerr h1err s
  | .conv rderr => Sys2Proof.Machine.execConv rderr s
  | .compt rderr => Sys2Proof.Machine.execCompt rderr s
  | .compp rderr => Sys2Proof.Machine.execCompp rderr s
  | .comph rderr => Sys2Proof.Machine.execComph rderr s
  | .clrerr => Sys2Proof.Machine.execClrerr s
  | .unload => Sys2Proof.Machine.execUnload s

end Sys2Proof.Machine
end

