-- ==== Sys2Proof/Machine/Ports.lean ====
section
/-! DEFINITION. What the host can read between two commands: STATUS (10_state.md R29), the coefficient read port (R24),
the output read port (R28), and the observation of a run (70_reset_and_hazards.md R241). -/

namespace Sys2Proof.Machine

/-- The valid bit of an output register: TV, PV, HV, and TFV for TFINE (R28). -/
def Status.outValid (st : Status) : OutReg → Bool
  | .tfine => st.tfv
  | .tOut => st.tv
  | .pOut => st.pv
  | .hOut => st.hv

/-- Whether a read of the port returns a value (R24, R28, R29). -/
def State.hasValue (s : State) : ReadPort → Bool
  | .status => true
  | .coef _ => s.status.loaded
  | .out r => s.status.outValid r

/-- The value the port would return. -/
def State.portValue (s : State) : ReadPort → Int
  | .status => (s.status.toWord.toNat : Int)
  | .coef r => s.x r
  | .out r => s.outValue r

/-- One read by the host: the value when there is one; otherwise a fault of the reading agent, "never a number"
(R24, R28). Reading changes no state, so it answers the value alone. -/
def readPort (p : ReadPort) (s : State) : Host.Outcome Int Fault Refusal :=
  if s.hasValue p = true then .next (s.portValue p) else .fault (.noValueRead p)

/-- Every port there is. -/
def allPorts : List ReadPort :=
  [.status,
   .coef .t1, .coef .t2, .coef .t3,
   .coef .p1, .coef .p2, .coef .p3, .coef .p4, .coef .p5, .coef .p6, .coef .p7, .coef .p8, .coef .p9,
   .coef .h1, .coef .h2, .coef .h3, .coef .h4, .coef .h5, .coef .h6,
   .out .tfine, .out .tOut, .out .pOut, .out .hOut]

/-- The observation of R241: STATUS and every read port that has a value. -/
def observe (s : State) : List (ReadPort × Int) :=
  (allPorts.filter s.hasValue).map fun p => (p, s.portValue p)

end Sys2Proof.Machine
end

