-- ==== Sys2Proof/Machine/HostPort.lean ====
section
/-! DEFINITION. One host action, and how a command word reaches the machine (30_encoding.md R70, R76). -/

namespace Sys2Proof.Machine

/-- One command word: decoded (R76), run, or ILLEGAL (R73, R74, R204), which is decided "before any state is read" and
has no effect but the fault action (R209). -/
def runWord (w : CmdWord) (s : State) : Host.Outcome State Fault Refusal :=
  match decode w with
  | .command i => exec i s
  | .illegal _ => .next (raiseFault .illegal s)

/-- A host read: it changes no state (R60), and it stops the run when the port holds no value (R24, R28; log 8). -/
def runRead (p : ReadPort) (s : State) : Host.Outcome State Fault Refusal :=
  match readPort p s with
  | .next _ => .next s
  | .fault r => .fault r
  | .refused r => .refused r

/-- One action of the host on the CPP. -/
def hostAct (a : HostAction) (s : State) : Host.Outcome State Fault Refusal :=
  match a with
  | .coefImage img => .next (s.withCoefPort img)
  | .sampleImage img => .next (s.withSamplePort img)
  | .command w => runWord w s
  | .read p => runRead p s
  | .reset => .next (resetInput s)

/-- The host has no further action: the CPP does nothing on its own (R218, R240), so nothing changes.
DESIGN CHOICE (log 1), safe. -/
def idle (s : State) : Host.Outcome State Fault Refusal := .next s

/-- Puts one command word in front of the host's remaining actions, where the next step takes it. -/
def presentWord (w : CmdWord) (s : State) : State := s.withHost (.command w :: s.host)

end Sys2Proof.Machine
end

