-- ==== Sys2Proof/Machine/Step.lean ====
section
/-! DEFINITION. One step: the next action of the host (10_state.md R20, 20_memory.md R61). -/

namespace Sys2Proof.Machine

/-- The CPP "executes one command per step, in the order the host issues them" (R20): the next action leaves the list and
takes effect. -/
def step (s : State) : Host.Outcome State Fault Refusal :=
  match s.host with
  | [] => idle s
  | a :: rest => hostAct a (s.withHost rest)

/-- `s` with the command word `w` (its bits from `nbits` on being 0) as the host's very next action. -/
def State.withFetchWord (s : State) (nbits w : Nat) : State :=
  presentWord (BitVec.ofNat 16 (w % 2 ^ nbits)) s

end Sys2Proof.Machine
end

