-- ==== Sys2Proof/Machine/Assembler.lean ====
section
/-! DEFINITION. The text form of a host program (30_encoding.md R78) and the pseudo-commands (R79). What R78 does not
fix (log 13, DESIGN CHOICE): words are separated by blanks and tabs, flags by single commas without blanks, names are
written exactly as R78 and R79 write them, a flag is named once, hexadecimal digits may be of either case. -/

namespace Sys2Proof.Machine

/-- One line of a host program (R78, R79). -/
inductive AsmLine where
  | blank
  | command (i : Instr)
  | coef (bytes : List Byte)
  | sample (bytes : List Byte)
  | read (rderr : Bool)
  | stage
  | reload
  deriving DecidableEq, Repr

/-- Blanks inside a line. -/
def isBlank (c : Char) : Bool := c == ' ' || c == '\t' || c == '\r'

/-- The parts of a text between separators. -/
def splitOn (sep : Char → Bool) : List Char → List (List Char)
  | [] => [[]]
  | c :: cs =>
    if sep c then [] :: splitOn sep cs
    else
      match splitOn sep cs with
      | [] => [[c]]
      | w :: ws => (c :: w) :: ws

/-- The words of a line, without its comment: "`;` starts a comment" (R78). -/
def lineWords (line : List Char) : List (List Char) :=
  (splitOn isBlank (line.takeWhile (· != ';'))).filter (· != [])

/-- The value of a hexadecimal digit. -/
def hexDigit (c : Char) : Option Nat :=
  let n := c.toNat
  if 48 ≤ n ∧ n ≤ 57 then some (n - 48)
  else if 65 ≤ n ∧ n ≤ 70 then some (n - 55)
  else if 97 ≤ n ∧ n ≤ 102 then some (n - 87)
  else none

/-- "each `bk` is two hexadecimal digits" (R78). -/
def hexByte : List Char → Option Byte
  | [a, b] => do
    let hi ← hexDigit a
    let lo ← hexDigit b
    return BitVec.ofNat 8 (16 * hi + lo)
  | _ => none

/-- The bytes of a directive. -/
def hexBytes : List (List Char) → Option (List Byte)
  | [] => some []
  | w :: ws => do
    let b ← hexByte w
    let bs ← hexBytes ws
    return b :: bs

/-- The flags named after a mnemonic (R78): each one of `allowed`, none twice; "a flag not named is 0". -/
def flagNames (allowed : List (List Char)) : List (List Char) → Option (List (List Char))
  | [] => some []
  | [w] =>
    let names := splitOn (· == ',') w
    if names.all (allowed.contains ·) = true ∧ names.Nodup then some names else none
  | _ => none

/-- A mnemonic that takes no flag. -/
def bareLine (l : AsmLine) : List (List Char) → Option AsmLine
  | [] => some l
  | _ => none

/-- A mnemonic with the flag `rderr`. -/
def sampleLine (l : Bool → AsmLine) (args : List (List Char)) : Option AsmLine := do
  let names ← flagNames ["rderr".toList] args
  return l (names.contains "rderr".toList)

/-- LOAD with its flags. -/
def loadLine (args : List (List Char)) : Option AsmLine := do
  let names ← flagNames ["tperr".toList, "hxerr".toList, "h1err".toList] args
  return .command (.load (names.contains "tperr".toList) (names.contains "hxerr".toList)
    (names.contains "h1err".toList))

/-- `.coef b0 … b31`: exactly 32 bytes (R58, R78). -/
def coefLine (args : List (List Char)) : Option AsmLine := do
  let bytes ← hexBytes args
  if coefBytesOk bytes then some (.coef bytes) else none

/-- `.sample b0 … b7`: exactly 8 bytes (R58, R78). -/
def sampleImageLine (args : List (List Char)) : Option AsmLine := do
  let bytes ← hexBytes args
  if sampleBytesOk bytes then some (.sample bytes) else none

/-- One line of text, or none where R78 and R79 give it no meaning. -/
def parseLine (line : List Char) : Option AsmLine :=
  match lineWords line with
  | [] => some .blank
  | m :: args =>
    if m = "NOP".toList then bareLine (.command .nop) args
    else if m = "LOAD".toList then loadLine args
    else if m = "CONV".toList then sampleLine (.command ∘ .conv) args
    else if m = "COMPT".toList then sampleLine (.command ∘ .compt) args
    else if m = "COMPP".toList then sampleLine (.command ∘ .compp) args
    else if m = "COMPH".toList then sampleLine (.command ∘ .comph) args
    else if m = "CLRERR".toList then bareLine (.command .clrerr) args
    else if m = "UNLOAD".toList then bareLine (.command .unload) args
    else if m = "READ".toList then sampleLine .read args
    else if m = "STAGE".toList then bareLine .stage args
    else if m = "RELOAD".toList then bareLine .reload args
    else if m = ".coef".toList then coefLine args
    else if m = ".sample".toList then sampleImageLine args
    else none

/-- Bytes as a number, byte 0 in bits 7:0 (20_memory.md R51, R52). -/
def bytesToNat : List Byte → Nat
  | [] => 0
  | b :: bs => b.toNat + 256 * bytesToNat bs

/-- The commands a line stands for: the pseudo-commands by their expansions (R79). -/
def AsmLine.actions : AsmLine → List HostAction
  | .blank => []
  | .command i => [.command (encode i)]
  | .coef bytes => [.coefImage (BitVec.ofNat 256 (bytesToNat bytes))]
  | .sample bytes => [.sampleImage (BitVec.ofNat 64 (bytesToNat bytes))]
  | .read rderr => [.command (encode (.conv rderr))]
  | .stage => [.command (encode (.compt false)), .command (encode (.compp false)), .command (encode (.comph false))]
  | .reload => [.command (encode .unload), .command (encode (.load false false false))]

/-- The actions of several lines, or none when one of them has no meaning. -/
def assembleLines : List (List Char) → Option (List HostAction)
  | [] => some []
  | line :: rest => do
    let l ← parseLine line
    let acts ← assembleLines rest
    return l.actions ++ acts

/-- A whole program: "one command per line" (R78). -/
def assemble (text : String) : Option (List HostAction) := assembleLines (splitOn (· == '\n') text.toList)

end Sys2Proof.Machine
end

