-- ==== Sys2Proof/Machine/Views.lean ====
section
/-! DEFINITION. The host's physical-unit views of the outputs (42_compensation.md R157, R158): one division per quantity,
"the exact rational quotient rounded once, to nearest with ties to even, into the format FLOAT_FMT". The CPP itself
holds no floating-point value (R160), so a view is a function of the outputs and of the format. -/

namespace Sys2Proof.Machine

/-- A finite binary floating-point value: (-1)^neg · mant · 2^exp. Zero is mant = 0, and the views give it no sign.
DEDUCED (log 14), safe. -/
structure FloatVal where
  neg  : Bool
  mant : Nat
  exp  : Int
  deriving DecidableEq, Repr

/-- The significand's bits: 24 for binary32, 53 for binary64. -/
def precision : FloatFmt → Nat
  | .binary32 => 24
  | .binary64 => 53

/-- +0.0. -/
def FloatVal.zero : FloatVal := { neg := false, mant := 0, exp := 0 }

/-- The rational number a value stands for. -/
def FloatVal.toRat (v : FloatVal) : ℚ := (if v.neg then -1 else 1) * (v.mant : ℚ) * (2 : ℚ) ^ v.exp

/-- a / d scaled by 2^(-e), as a numerator and a denominator. -/
def scaled (a d : Nat) (e : Int) : Nat × Nat := (a * 2 ^ (-e).toNat, d * 2 ^ e.toNat)

/-- The exponent at which a / d, for a and d not 0, has a significand of exactly `p` bits. -/
def roundExponent (p a d : Nat) : Int :=
  let e : Int := (Nat.log2 a : Int) - (Nat.log2 d : Int) - (p : Int)
  let q := scaled a d e
  if q.1 / q.2 < 2 ^ p then e else e + 1

/-- num / den to the nearest integer, ties to even. -/
def roundHalfEven (num den : Nat) : Nat :=
  let q := num / den
  let r := num % den
  if 2 * r < den then q
  else if den < 2 * r then q + 1
  else if q % 2 = 0 then q else q + 1

/-- n / d rounded once to a significand of `p` bits. The views' quotients lie far inside both formats' exponent ranges
(`COVERAGE.json` F3), so no overflow and no subnormal is met. -/
def roundQuotient (p : Nat) (n : Int) (d : Nat) : FloatVal :=
  if n = 0 then FloatVal.zero
  else
    let e := roundExponent p n.natAbs d
    let q := scaled n.natAbs d e
    let m := roundHalfEven q.1 q.2
    if m = 2 ^ p then { neg := decide (n < 0), mant := 2 ^ (p - 1), exp := e + 1 }
    else { neg := decide (n < 0), mant := m, exp := e }

/-- The three quantities of the source's CalibratedSample (R157). -/
inductive Quantity where
  | temperatureC
  | pressurePa
  | humidityPct
  deriving DecidableEq, Repr

/-- The output register a quantity is formed from (R157). -/
def Quantity.register : Quantity → OutReg
  | .temperatureC => .tOut
  | .pressurePa => .pOut
  | .humidityPct => .hOut

/-- The divisor of a quantity (R157). -/
def Quantity.divisor : Quantity → Nat
  | .temperatureC => 100
  | .pressurePa => 256
  | .humidityPct => 1024

/-- The view of an output value in a given format (R157). -/
def viewOf (fmt : FloatFmt) (q : Quantity) (v : Int) : FloatVal := roundQuotient (precision fmt) v q.divisor

/-- The host's view of a state: a read of the output port (R28) and one division (R157). It has no value, as the read has
none, while the register's valid bit is 0. -/
def State.view (fmt : FloatFmt) (q : Quantity) (s : State) : Option FloatVal :=
  match readPort (.out q.register) s with
  | .next v => some (viewOf fmt q v)
  | .fault _ => none
  | .refused _ => none

/-- The view in this machine's format, which the spec leaves OPEN (`FLOAT_FMT`, log 6). -/
def State.calibrated (q : Quantity) (s : State) : Option FloatVal := s.view Config.floatFmt q

end Sys2Proof.Machine
end

