-- ==== Sys2Proof/Safety.lean ====
section
/-! DEFINITION. What counts as a faulted run (10_state.md R36, 70_reset_and_hazards.md R241), and the invariant that the
rules' whole-machine sentences add up to. -/

namespace Sys2Proof.Machine

/-- "A run is faulted when STATUS.FAULT = 1 at its end" (R241, R36). -/
def State.faulted (s : State) : Bool := s.status.fault

/-- A run of `k` host actions ends faulted (R241), or stops at a host read of no value (R24, R28). R241 defines a run only
as commands from reset: that a list of actions with a reset inside is judged by FAULT after its last action, so that a
FAULT raised before that reset does not count, and that a stopped read counts, are DESIGN CHOICES (log 17), unsafe. -/
def runFaulted (k : Nat) (s : State) : Bool :=
  match Sys2Proof.core.run k s with
  | .next t => State.faulted t
  | .fault _ => true
  | .refused _ => true

/-- The codes the CPP can ever hold in ERR: none, its reported errors and its faults (R201, R207); OVERFLOW only when
`OVF` = fault (R205). -/
def errAllowed (ovf : Ovf) (e : BitVec 4) : Prop :=
  e = ErrorName.none.code ∨ e = ErrorName.coefficientTableReadFailure.code ∨
  e = ErrorName.humidityCoefficientReadFailure.code ∨ e = ErrorName.genericBusReadFailure.code ∨
  e = ErrorName.notLoaded.code ∨ e = ErrorName.tfineInvalid.code ∨ e = ErrorName.illegal.code ∨
  (e = ErrorName.overflow.code ∧ ovf = .fault)

/-- The legal range of H4 and H5 (10_state.md R22, parameter `H45_SEXT`). -/
def h45InRange (p : Params) (v : Int) : Prop :=
  if p.h45Sext then -2048 ≤ v ∧ v ≤ 2047 else 0 ≤ v ∧ v ≤ 4095

/-- What holds of every state a run reaches. -/
structure State.Inv (s : State) : Prop where
  /-- R31: TFINE is valid for the current coefficients only. -/
  tfv_loaded : s.status.tfv = true → s.status.loaded = true
  /-- R152, R155, R32: whatever sets TFV sets TV, and TV stays. -/
  tfv_tv : s.status.tfv = true → s.status.tv = true
  /-- R145: while TFINE is valid, T_OUT is its temperature. -/
  tOut_of_tfine : s.status.tfv = true → tempOut s.params.ovf s.tfine.toInt = some s.tOut.toInt
  /-- R33, R147: the guard's trace stands beside a P_OUT of 0. -/
  pz_pOut : s.status.pz = true → s.status.pv = true ∧ s.pOut = 0
  /-- R34, R150: the lower clamp's trace stands beside an H_OUT of 0. -/
  hlo_hOut : s.status.hlo = true → s.status.hv = true ∧ s.hOut = 0
  /-- R34, R150, R151: the upper clamp's trace stands beside the largest H_OUT. -/
  hhi_hOut : s.status.hhi = true →
    s.status.hv = true ∧ (s.hOut.toNat : Int) = asr humidityMax (humOutShiftAmount s.params.humOutShift)
  /-- R34, R150: "at most one of them is 1". -/
  not_hlo_hhi : ¬ (s.status.hlo = true ∧ s.status.hhi = true)
  /-- R151: the range of H_OUT. -/
  hOut_le : (s.hOut.toNat : Int) ≤ asr humidityMax (humOutShiftAmount s.params.humOutShift)
  /-- R201, R205, R207: the codes ERR can hold. -/
  err_allowed : errAllowed s.params.ovf s.status.err
  /-- R208, R36: a fault's code never stands without FAULT. -/
  fault_code : ErrorName.notLoaded.code.toNat ≤ s.status.err.toNat → s.status.fault = true
  /-- R22: H4. -/
  h4_range : h45InRange s.params (s.x .h4)
  /-- R22: H5. -/
  h5_range : h45InRange s.params (s.x .h5)

end Sys2Proof.Machine
end

