-- ==== Sys2Proof/Certificates/Slice0/Obligations.lean ====
section
/-! DEFINITION. The statements for the provers. Each says what a rule of spec/ says of the machine; formulas a statement
compares the machine with are written out here from the rules, in arithmetic of their own (`Claims`). -/

namespace Sys2Proof.Claims

open Sys2Proof.Machine

/-- The signed 32-bit representative of an integer modulo 2^32 (R9, R140 with `OVF` = wrap). -/
def s32 (v : Int) : Int := Int.bmod v 4294967296

/-- The signed 64-bit representative of an integer modulo 2^64 (R9, R140 with `OVF` = wrap). -/
def s64 (v : Int) : Int := Int.bmod v 18446744073709551616

/-- Shift right: floor(v / 2^k) (R9, R141). -/
def shr (v : Int) (k : Nat) : Int := Int.fdiv v (2 ^ k)

/-- A 16-bit word read as two's complement (R102). -/
def signed16 (v : Nat) : Int := if v < 32768 then (v : Int) else (v : Int) - 65536

/-- A byte read as two's complement (R108). -/
def signed8 (v : Nat) : Int := if v < 128 then (v : Int) else (v : Int) - 256

/-- A little-endian word of an image (R53). -/
def leWord {n : Nat} (img : BitVec n) (o : Nat) : Nat := imageByte img o + 256 * imageByte img (o + 1)

/-- Whether an integer lies in the signed range of a width (R140). -/
abbrev fits (n : Nat) (v : Int) : Prop := -2 ^ (n - 1) ≤ v ∧ v < 2 ^ (n - 1)

/-- R144; `hold` is what a 32-bit operation does to its exact result. -/
def fineTempFormula (hold : Int → Int) (x : CoefReg → Int) (adcT : Int) : Int :=
  let a := hold (shr adcT 3 - hold (x .t1 * 2))
  let var1 := shr (hold (a * x .t2)) 11
  let d := hold (shr adcT 4 - x .t1)
  let sq := hold (d * d)
  let var2 := shr (hold ((shr sq 12) * x .t3)) 14
  hold (var1 + var2)

/-- The exact results of the operations R144 marks w32. -/
def fineTempSteps (x : CoefReg → Int) (adcT : Int) : List Int :=
  let a := shr adcT 3 - x .t1 * 2
  let d := shr adcT 4 - x .t1
  let m := (shr (d * d) 12) * x .t3
  [x .t1 * 2, a, a * x .t2, d, d * d, m, (shr (a * x .t2) 11) + (shr m 14)]

/-- R145. -/
def tempOutFormula (hold : Int → Int) (tf : Int) : Int := shr (hold (hold (tf * 5) + 128)) 8

/-- The exact results of the operations R145 marks w32. -/
def tempOutSteps (tf : Int) : List Int := [tf * 5, tf * 5 + 128]

/-- R146 down to the guard: (v2, denominator term). `hold` is what a 64-bit operation does to its exact result. -/
def pressureTermsFormula (hold : Int → Int) (x : CoefReg → Int) (tf : Int) : Int × Int :=
  let v1 := hold (tf - 128000)
  let v2 := hold (hold (v1 * v1) * x .p6)
  let v2 := hold (v2 + hold (hold (v1 * x .p5) * 131072))
  let v2 := hold (v2 + hold (x .p4 * 34359738368))
  let v1 := hold ((shr (hold (hold (v1 * v1) * x .p3)) 8) + hold (hold (v1 * x .p2) * 4096))
  (v2, (shr (hold (hold (140737488355328 + v1) * x .p1)) 33))

/-- R146 from the numerator to the final 64-bit p, for given v2 and denominator term. -/
def pressureQuotientFormula (hold : Int → Int) (x : CoefReg → Int) (adcP v2 den : Int) : Int :=
  let p := hold (1048576 - adcP)
  let n := hold (hold (hold (p * 2147483648) - v2) * 3125)
  let p := hold (Int.tdiv n den)
  let v1 := shr (hold (hold (x .p9 * (shr p 13)) * (shr p 13))) 25
  let v2 := shr (hold (x .p8 * p)) 19
  hold ((shr (hold (hold (p + v1) + v2)) 8) + hold (x .p7 * 16))

/-- P_OUT and the guard (R146 to R148). -/
def pressureFormula (hold : Int → Int) (x : CoefReg → Int) (adcP tf : Int) : Int × Bool :=
  let t := pressureTermsFormula hold x tf
  if t.2 = 0 then (0, true) else (pressureQuotientFormula hold x adcP t.1 t.2 % 4294967296, false)

/-- The exact results of the operations R146 marks w64, down to the guard. -/
def pressureTermsSteps (x : CoefReg → Int) (tf : Int) : List Int :=
  let v1 := tf - 128000
  let c := (shr (v1 * v1 * x .p3) 8) + v1 * x .p2 * 4096
  [v1, v1 * v1, v1 * v1 * x .p6, v1 * x .p5, v1 * x .p5 * 131072, v1 * v1 * x .p6 + v1 * x .p5 * 131072,
   x .p4 * 34359738368, v1 * v1 * x .p6 + v1 * x .p5 * 131072 + x .p4 * 34359738368,
   v1 * v1 * x .p3, v1 * x .p2, v1 * x .p2 * 4096, c, 140737488355328 + c, (140737488355328 + c) * x .p1]

/-- The exact results of the operations R146 marks w64, from the numerator on. -/
def pressureQuotientSteps (x : CoefReg → Int) (adcP v2 den : Int) : List Int :=
  let p0 := 1048576 - adcP
  let n := (p0 * 2147483648 - v2) * 3125
  let p := Int.tdiv n den
  let v1 := shr (x .p9 * (shr p 13) * (shr p 13)) 25
  let v2' := shr (x .p8 * p) 19
  [p0, p0 * 2147483648, p0 * 2147483648 - v2, n, p, x .p9 * (shr p 13), x .p9 * (shr p 13) * (shr p 13), x .p8 * p,
   p + v1, p + v1 + v2', x .p7 * 16, (shr (p + v1 + v2') 8) + x .p7 * 16]

/-- Every operation R146 performs has a result its 64 bits hold; after the guard none is performed (R147). -/
abbrev pressureFits (x : CoefReg → Int) (adcP tf : Int) : Prop :=
  (∀ e ∈ pressureTermsSteps x tf, fits 64 e) ∧
  ((pressureTermsFormula id x tf).2 ≠ 0 →
    ∀ e ∈ pressureQuotientSteps x adcP (pressureTermsFormula id x tf).1 (pressureTermsFormula id x tf).2, fits 64 e)

/-- R149: the unclamped intermediate. -/
def humidityFormula (hold : Int → Int) (x : CoefReg → Int) (adcH tf : Int) : Int :=
  let v := hold (tf - 76800)
  let a := hold (hold (hold (adcH * 16384) - hold (x .h4 * 1048576)) - hold (x .h5 * v))
  let cA := shr (hold (a + 16384)) 15
  let cX := shr (hold (v * x .h6)) 10
  let cY := hold ((shr (hold (v * x .h3)) 11) + 32768)
  let cZ := shr (hold (cX * cY)) 10
  let cW := hold (cZ + 2097152)
  let cB := shr (hold (hold (cW * x .h2) + 8192)) 14
  let v := hold (cA * cB)
  let s := shr v 15
  let q := shr (hold ((shr (hold (s * s)) 7) * x .h1)) 4
  hold (v - q)

/-- The exact results of the operations R149 marks w32. -/
def humiditySteps (x : CoefReg → Int) (adcH tf : Int) : List Int :=
  let v := tf - 76800
  let d := adcH * 16384 - x .h4 * 1048576
  let a := d - x .h5 * v
  let cA := shr (a + 16384) 15
  let cX := shr (v * x .h6) 10
  let cY := (shr (v * x .h3) 11) + 32768
  let cZ := shr (cX * cY) 10
  let cW := cZ + 2097152
  let cB := shr (cW * x .h2 + 8192) 14
  let u := cA * cB
  let s := shr u 15
  let m := (shr (s * s) 7) * x .h1
  [v, adcH * 16384, x .h4 * 1048576, d, x .h5 * v, a, a + 16384, v * x .h6, v * x .h3, cY, cX * cY, cW, cW * x .h2,
   cW * x .h2 + 8192, u, s * s, m, u - (shr m 4)]

/-- Every operation of a complete conversion has a result its width holds (R155): the two temperature formulas, then the
pressure and the humidity pipeline from their t_fine. -/
abbrev convFits (x : CoefReg → Int) (adcP adcT adcH tf : Int) : Prop :=
  (∀ e ∈ fineTempSteps x adcT ++ tempOutSteps tf, fits 32 e) ∧ pressureFits x adcP tf ∧
  ∀ e ∈ humiditySteps x adcH tf, fits 32 e

/-- The clamp of R150. -/
def clampFormula (v : Int) : Int := if v < 0 then 0 else if 419430400 < v then 419430400 else v

/-- The output shift of R151. -/
def humShift : HumOutShift → Nat
  | .twelve => 12
  | .zero => 0

/-- adc_P (R115). -/
def adcP (s : State) : Int :=
  ((imageByte s.samplePort 0 * 65536 + imageByte s.samplePort 1 * 256 + imageByte s.samplePort 2) / 16 : Nat)

/-- adc_T (R115). -/
def adcT (s : State) : Int :=
  ((imageByte s.samplePort 3 * 65536 + imageByte s.samplePort 4 * 256 + imageByte s.samplePort 5) / 16 : Nat)

/-- adc_H (R115). -/
def adcH (s : State) : Int := (imageByte s.samplePort 6 * 256 + imageByte s.samplePort 7 : Nat)

/-- The state after the writes of a temperature result, and nothing else (R152). -/
def temperatureWritten (tf tv : Int) (s : State) : State :=
  { s with tfine := BitVec.ofInt 32 tf, tOut := BitVec.ofInt 32 tv,
           status := { s.status with tfv := true, tv := true } }

/-- The state after the writes of a pressure result, and nothing else (R153). -/
def pressureWritten (r : Int × Bool) (s : State) : State :=
  { s with pOut := BitVec.ofInt 32 r.1, status := { s.status with pz := r.2, pv := true } }

/-- The state after the writes of a humidity result, and nothing else (R154), from the unclamped intermediate. -/
def humidityWritten (v : Int) (s : State) : State :=
  { s with hOut := BitVec.ofInt 32 (shr (clampFormula v) (humShift s.params.humOutShift)),
           status := { s.status with hlo := decide (v < 0), hhi := decide (419430400 < v), hv := true } }

/-- The state after the fault action (R208), and nothing else. -/
def faultWritten (code : BitVec 4) (s : State) : State :=
  { s with status := { s.status with err := code, fault := true } }

/-- The state after the reported-error action (R206), and nothing else. -/
def errorWritten (code : BitVec 4) (s : State) : State := { s with status := { s.status with err := code } }

/-- Two states no agent can tell apart: equal but for registers that hold no value (R24, R25, R28). -/
def SameVisible (s t : State) : Prop :=
  s.params = t.params ∧ s.status = t.status ∧ s.coefPort = t.coefPort ∧ s.samplePort = t.samplePort ∧
  s.host = t.host ∧ (s.status.loaded = true → s.coef = t.coef) ∧ (s.status.tfv = true → s.tfine = t.tfine) ∧
  (s.status.tv = true → s.tOut = t.tOut) ∧ (s.status.pv = true → s.pOut = t.pOut) ∧
  (s.status.hv = true → s.hOut = t.hOut)

/-- The state after one command word, by the command rules alone (R61): a legal word's command, ILLEGAL otherwise. -/
def afterWord (s : State) (w : CmdWord) : State :=
  match decode w with
  | .command i =>
    match exec i s with
    | .next t => t
    | .fault _ => s
    | .refused _ => s
  | .illegal _ => faultWritten 13 s

/-- One item of the sequence a run executes: a command word, or the image the host places on a port before the command
that reads it (R50, R70, R241). -/
inductive RunInput where
  | coefImage (img : CoefImage)
  | sampleImage (img : SampleImage)
  | word (w : CmdWord)
  deriving DecidableEq, Repr

/-- The host action of an item. -/
def RunInput.action : RunInput → HostAction
  | .coefImage img => .coefImage img
  | .sampleImage img => .sampleImage img
  | .word w => .command w

/-- The state after one item: an image on its port (R51, R52), or the command rules (R61). -/
def afterInput (s : State) : RunInput → State
  | .coefImage img => { s with coefPort := img }
  | .sampleImage img => { s with samplePort := img }
  | .word w => afterWord s w

/-- A host action that is not a read of a port. -/
def notRead : HostAction → Bool
  | .coefImage _ => true
  | .sampleImage _ => true
  | .command _ => true
  | .read _ => false
  | .reset => true

/-- The commands that compute t_fine when they complete. -/
def computesTfine : Instr → Bool
  | .compt _ => true
  | .conv _ => true
  | .nop => false
  | .load _ _ _ => false
  | .compp _ => false
  | .comph _ => false
  | .clrerr => false
  | .unload => false

end Sys2Proof.Claims

open Sys2Proof Sys2Proof.Machine Sys2Proof.Claims

/-! ### Encoding and the step -/

/-- A step runs the decoded command: the word leaves the host's list and the command runs on what is left. -/
def Obligations.StepRunsDecodedCommand : Prop :=
  ∀ (s : State) (w : CmdWord) (rest : List HostAction) (i : Instr),
    s.host = .command w :: rest → decode w = .command i → step s = exec i { s with host := rest }

/-- R73, R74, R204: an OP of 0x8 to 0xF, RSV ≠ 0, F3 = 1 or a flag the opcode does not assign raises ILLEGAL (code 13),
which writes ERR and FAULT and has no other effect. -/
def Obligations.MalformedWordRaisesIllegalOnly : Prop :=
  ∀ (s : State) (w : CmdWord) (rest : List HostAction), s.host = .command w :: rest →
    (w.toNat / 256 ≠ 0 ∨ 8 ≤ w.toNat % 16 ∨ w.getLsbD 7 = true ∨
      ((w.toNat % 16 = 0 ∨ w.toNat % 16 = 6 ∨ w.toNat % 16 = 7) ∧ w.getLsbD 4 = true) ∨
      (w.toNat % 16 ≠ 1 ∧ (w.getLsbD 5 = true ∨ w.getLsbD 6 = true))) →
    step s = .next { s with host := rest, status := { s.status with err := 13, fault := true } }

/-- The decoder on words of the decoder table (sanity). -/
def Obligations.DecoderReadsTableWords : Prop :=
  decode 0x0000 = .command .nop ∧ decode 0x0001 = .command (.load false false false) ∧
  decode 0x0011 = .command (.load true false false) ∧ decode 0x0021 = .command (.load false true false) ∧
  decode 0x0041 = .command (.load false false true) ∧ decode 0x0071 = .command (.load true true true) ∧
  decode 0x0002 = .command (.conv false) ∧ decode 0x0012 = .command (.conv true) ∧
  decode 0x0013 = .command (.compt true) ∧ decode 0x0004 = .command (.compp false) ∧
  decode 0x0015 = .command (.comph true) ∧ decode 0x0006 = .command .clrerr ∧ decode 0x0007 = .command .unload ∧
  (∀ w ∈ [(0x0010 : CmdWord), 0x00F1, 0x0081, 0x0022, 0x0016, 0x0017, 0x0008, 0x000F, 0x0100, 0x8001, 0xFFFF],
    ∀ i, decode w ≠ .command i)

/-- Decode and encode agree, in both directions: the word of a command is its encoding and no other word is. -/
def Obligations.DecodeAndEncodeAgree : Prop :=
  ∀ (w : CmdWord) (i : Instr), decode w = .command i ↔ w = encode i

/-- R76: exactly these 19 words are legal. -/
def Obligations.ExactlyNineteenWordsAreLegal : Prop :=
  ∀ w : CmdWord, (∃ i, decode w = .command i) ↔
    w ∈ [(0x0000 : CmdWord), 0x0001, 0x0011, 0x0021, 0x0031, 0x0041, 0x0051, 0x0061, 0x0071, 0x0002, 0x0012, 0x0003,
      0x0013, 0x0004, 0x0014, 0x0005, 0x0015, 0x0006, 0x0007]

/-- R77: a word is the command of a row exactly when (w & mask) == match; no word matches two rows; the flag letters
stand at F0, F1 and F2. -/
def Obligations.RowMatchesExactlyItsCommands : Prop :=
  (∀ w : CmdWord, ∀ r ∈ opcodeRows,
    (w &&& r.mask = r.value ↔ ∃ i, decode w = .command i ∧ i.mnemonic = r.mnemonic)) ∧
  (∀ w : CmdWord, ∀ r ∈ opcodeRows, ∀ r' ∈ opcodeRows, w &&& r.mask = r.value → w &&& r'.mask = r'.value → r = r') ∧
  (∀ (w : CmdWord) (a b c : Bool), decode w = .command (.load a b c) →
    a = w.getLsbD 4 ∧ b = w.getLsbD 5 ∧ c = w.getLsbD 6) ∧
  (∀ (w : CmdWord) (r : Bool),
    decode w = .command (.conv r) ∨ decode w = .command (.compt r) ∨ decode w = .command (.compp r) ∨
      decode w = .command (.comph r) → r = w.getLsbD 4)

/-! ### LOAD -/

/-- A LOAD with no failure flag completes in every state, and gives each of the 18 registers the integer its bytes stand
for (R101 to R108); LOADED becomes 1, TFV 0, and nothing else changes (R100). The H2 clause is R104's
"`x[H2] <- sext_16(hb[0] + 256 × hb[1])`", which the spec marks as derived from R53; the field order of R101 and the
places of H2 and H3 are general knowledge by the spec's mark G2 (log 7). -/
def Obligations.LoadDecodesEveryCoefficient : Prop :=
  ∀ s : State, ∃ c : CoefFile,
    exec (.load false false false) s =
      .next { s with coef := c, status := { s.status with loaded := true, tfv := false } } ∧
    c.value s.params .t1 = leWord s.coefPort 0 ∧
    c.value s.params .t2 = signed16 (leWord s.coefPort 2) ∧
    c.value s.params .t3 = signed16 (leWord s.coefPort 4) ∧
    c.value s.params .p1 =
      (if s.params.p1Signed then signed16 (leWord s.coefPort 6) else (leWord s.coefPort 6 : Int)) ∧
    c.value s.params .p2 = signed16 (leWord s.coefPort 8) ∧
    c.value s.params .p3 = signed16 (leWord s.coefPort 10) ∧
    c.value s.params .p4 = signed16 (leWord s.coefPort 12) ∧
    c.value s.params .p5 = signed16 (leWord s.coefPort 14) ∧
    c.value s.params .p6 = signed16 (leWord s.coefPort 16) ∧
    c.value s.params .p7 = signed16 (leWord s.coefPort 18) ∧
    c.value s.params .p8 = signed16 (leWord s.coefPort 20) ∧
    c.value s.params .p9 = signed16 (leWord s.coefPort 22) ∧
    c.value s.params .h1 = imageByte s.coefPort 24 ∧
    c.value s.params .h2 = signed16 (leWord s.coefPort 25) ∧
    c.value s.params .h3 = imageByte s.coefPort 27 ∧
    c.value s.params .h4 =
      (if s.params.h45Sext then signed8 (imageByte s.coefPort 28) else (imageByte s.coefPort 28 : Int)) * 16
        + (imageByte s.coefPort 29 % 16 : Nat) ∧
    c.value s.params .h5 =
      (if s.params.h45Sext then signed8 (imageByte s.coefPort 30) else (imageByte s.coefPort 30 : Int)) * 16
        + (imageByte s.coefPort 29 / 16 : Nat) ∧
    c.value s.params .h6 = signed8 (imageByte s.coefPort 31)

/-- R110: with TPERR the code is 5 whatever the other flags are; without it, HXERR or H1ERR gives 6. On both paths LOADED
and TFV become 0 and nothing else changes. -/
def Obligations.FailedLoadReportsFailingStep : Prop :=
  ∀ (s : State) (hxerr h1err : Bool),
    exec (.load true hxerr h1err) s =
      .next { s with status := { s.status with loaded := false, tfv := false, err := 5 } } ∧
    (hxerr = true ∨ h1err = true → exec (.load false hxerr h1err) s =
      .next { s with status := { s.status with loaded := false, tfv := false, err := 6 } })

/-- R112: after a successful LOAD each primary field, taken modulo 65536, gives back the two bytes it came from, for both
values of P1_SIGNED. -/
def Obligations.PrimaryBlockRoundTrips : Prop :=
  ∀ s t : State, exec (.load false false false) s = .next t →
    ∀ row ∈ [(CoefReg.t1, 0), (.t2, 2), (.t3, 4), (.p1, 6), (.p2, 8), (.p3, 10), (.p4, 12), (.p5, 14), (.p6, 16),
        (.p7, 18), (.p8, 20), (.p9, 22)],
      t.x row.1 % 65536 % 256 = imageByte s.coefPort row.2 ∧
      t.x row.1 % 65536 / 256 = imageByte s.coefPort (row.2 + 1)

/-- R113: the unpacker drops no bit of the bytes H4 and H5 come from, for both values of H45_SEXT, and is exactly the
source's formula with zero extension. -/
def Obligations.UnpackerKeepsEveryBit : Prop :=
  ∀ s t : State, exec (.load false false false) s = .next t →
    (s.params.h45Sext = false →
      t.x .h4 = imageByte s.coefPort 28 * 16 + (imageByte s.coefPort 29 % 16 : Nat) ∧
      t.x .h5 = imageByte s.coefPort 30 * 16 + (imageByte s.coefPort 29 / 16 : Nat)) ∧
    (s.params.h45Sext = true →
      t.x .h4 = signed8 (imageByte s.coefPort 28) * 16 + (imageByte s.coefPort 29 % 16 : Nat) ∧
      t.x .h5 = signed8 (imageByte s.coefPort 30) * 16 + (imageByte s.coefPort 29 / 16 : Nat)) ∧
    t.x .h4 % 4096 = imageByte s.coefPort 28 * 16 + (imageByte s.coefPort 29 % 16 : Nat) ∧
    t.x .h5 % 4096 = imageByte s.coefPort 30 * 16 + (imageByte s.coefPort 29 / 16 : Nat)

/-- R114: every bit of the coefficient image reaches exactly one coefficient register, and every byte pattern decodes:
LOAD completes on every image, and two images that differ in one bit give register files that differ in one register. -/
def Obligations.EveryImageBitReachesOneRegister : Prop :=
  ∀ (s : State) (k : Nat), k < 256 → ∃ t t' : State,
    exec (.load false false false) s = .next t ∧
    exec (.load false false false) { s with coefPort := s.coefPort ^^^ BitVec.twoPow 256 k } = .next t' ∧
    ∃! r : CoefReg, t.x r ≠ t'.x r

/-- R23: only LOAD writes the coefficient registers, and a LOAD replaces all 18 together or none of them. -/
def Obligations.OnlyLoadWritesCoefficients : Prop :=
  ∀ (i : Instr) (s t : State), exec i s = .next t →
    t.coef = s.coef ∨
    (i = .load false false false ∧ ∀ r, t.x r = loadedValue s.params s.coefPort r)

/-- H4's extension (R109, which the spec derives): the sign-extended H4 differs from the zero-extended one by 4096
exactly when hb[3] ≥ 0x80; with wrapping arithmetic an H4 lower by 4096 changes nothing COMPH or CONV writes; with
OVF = fault an H4 ≥ 2048 makes COMPH and CONV raise OVERFLOW. -/
def Obligations.H4ExtensionDoesNotReachHumidity : Prop :=
  (∀ (p : Params) (img : CoefImage),
    loadedValue { p with h45Sext := true } img .h4 = loadedValue { p with h45Sext := false } img .h4
      - (if 128 ≤ imageByte img 28 then 4096 else 0)) ∧
  (∀ (s : State) (c : CoefFile), s.params.ovf = .wrap → s.status.loaded = true →
    (∀ r, r ≠ .h4 → c.value s.params r = s.x r) → c.value s.params .h4 = s.x .h4 - 4096 →
    (∃ t : State, exec (.conv false) s = .next t ∧
      exec (.conv false) { s with coef := c } = .next { t with coef := c }) ∧
    (s.status.tfv = true → ∃ t : State, exec (.comph false) s = .next t ∧
      exec (.comph false) { s with coef := c } = .next { t with coef := c })) ∧
  (∀ s : State, s.params.ovf = .fault → s.status.loaded = true → 2048 ≤ s.x .h4 →
    exec (.conv false) s = .next (faultWritten 14 s) ∧
    (s.status.tfv = true → exec (.comph false) s = .next (faultWritten 14 s)))

/-- A RELOAD ends as a LOAD alone does, when the reads succeeded: LOAD alone also replaces the coefficients. -/
def Obligations.ReloadEndsAsLoadAlone : Prop :=
  ∀ (s : State) (rest : List HostAction), ∃ t : State,
    Sys2Proof.core.run 2 { s with host := AsmLine.reload.actions ++ rest } = .next { t with host := rest } ∧
    exec (.load false false false) s = .next t

/-! ### The sample commands -/

/-- R115, R116: the raw-sample extractor's three values and their ranges. -/
def Obligations.RawSampleIsBigEndianFields : Prop :=
  ∀ s : State, rawSample s.samplePort = { adcP := adcP s, adcT := adcT s, adcH := adcH s } ∧
    0 ≤ adcP s ∧ adcP s < 1048576 ∧ 0 ≤ adcT s ∧ adcT s < 1048576 ∧ 0 ≤ adcH s ∧ adcH s < 65536

/-- COMPT uses only sample bytes 3 to 5, COMPP only 0 to 2, COMPH only 6 and 7. -/
def Obligations.StagedCommandsIgnoreOtherSampleBytes : Prop :=
  ∀ (s : State) (img : SampleImage) (rderr : Bool),
    ((∀ k, 3 ≤ k → k ≤ 5 → imageByte img k = imageByte s.samplePort k) → ∃ t : State,
      exec (.compt rderr) s = .next t ∧
      exec (.compt rderr) { s with samplePort := img } = .next { t with samplePort := img }) ∧
    ((∀ k, k ≤ 2 → imageByte img k = imageByte s.samplePort k) → ∃ t : State,
      exec (.compp rderr) s = .next t ∧
      exec (.compp rderr) { s with samplePort := img } = .next { t with samplePort := img }) ∧
    ((∀ k, 6 ≤ k → k ≤ 7 → imageByte img k = imageByte s.samplePort k) → ∃ t : State,
      exec (.comph rderr) s = .next t ∧
      exec (.comph rderr) { s with samplePort := img } = .next { t with samplePort := img })

/-- R144, R145: with LOADED = 1, RDERR = 0 and wrapping arithmetic COMPT completes, TFINE and T_OUT are the formulas'
values, TFV and TV become 1, and nothing else changes. -/
def Obligations.ComptComputesTemperature : Prop :=
  ∀ s : State, s.status.loaded = true → s.params.ovf = .wrap →
    exec (.compt false) s =
      .next (temperatureWritten (fineTempFormula s32 s.x (adcT s))
        (tempOutFormula s32 (fineTempFormula s32 s.x (adcT s))) s)

/-- R146, R148: with LOADED = TFV = 1, RDERR = 0 and wrapping arithmetic COMPP completes, P_OUT and PZ are the formula's
values from TFINE, PV becomes 1, and nothing else changes. -/
def Obligations.ComppComputesPressure : Prop :=
  ∀ s : State, s.status.loaded = true → s.status.tfv = true → s.params.ovf = .wrap →
    exec (.compp false) s = .next (pressureWritten (pressureFormula s64 s.x (adcP s) s.tfine.toInt) s)

/-- R147: the guard is taken exactly when (2^47 + v1) · P1, held at 64 bits, lies in 0 .. 2^33 - 1, always when P1 = 0;
then P_OUT = 0 and PZ = 1, and ERR and FAULT are unchanged. -/
def Obligations.PressureGuardTakenExactly : Prop :=
  ∀ (s : State) (v1 prod : Int), s.status.loaded = true → s.status.tfv = true → s.params.ovf = .wrap →
    v1 = s64 ((shr (s64 (s64 (s64 (s.tfine.toInt - 128000) * s64 (s.tfine.toInt - 128000)) * s.x .p3)) 8)
      + s64 (s64 (s64 (s.tfine.toInt - 128000) * s.x .p2) * 4096)) →
    prod = s64 (s64 (140737488355328 + v1) * s.x .p1) →
    ∃ t : State, exec (.compp false) s = .next t ∧
      (t.status.pz = true ↔ 0 ≤ prod ∧ prod ≤ 8589934591) ∧
      (s.x .p1 = 0 → t.status.pz = true) ∧
      (t.status.pz = true → t.pOut = 0) ∧
      t.status.err = s.status.err ∧ t.status.fault = s.status.fault

/-- R149, R150, R151: with LOADED = TFV = 1, RDERR = 0 and wrapping arithmetic COMPH completes, H_OUT is the formula's
value clamped to [0, 419430400] and shifted by HUM_OUT_SHIFT, HLO and HHI are the clamp outcomes, HV becomes 1, and
nothing else changes. -/
def Obligations.ComphComputesHumidity : Prop :=
  ∀ s : State, s.status.loaded = true → s.status.tfv = true → s.params.ovf = .wrap →
    exec (.comph false) s = .next (humidityWritten (humidityFormula s32 s.x (adcH s) s.tfine.toInt) s)

/-- CONV with LOADED = 1, RDERR = 0 and wrapping arithmetic completes: temperature first, then pressure and humidity from
the t_fine just computed, and nothing but their registers and STATUS fields changes. -/
def Obligations.ConvComputesAllThree : Prop :=
  ∀ (s : State) (tf : Int), s.status.loaded = true → s.params.ovf = .wrap →
    tf = fineTempFormula s32 s.x (adcT s) →
    exec (.conv false) s =
      .next (humidityWritten (humidityFormula s32 s.x (adcH s) tf)
        (pressureWritten (pressureFormula s64 s.x (adcP s) tf)
          (temperatureWritten tf (tempOutFormula s32 tf) s)))

/-- CONV and the staged sequence agree: from a loaded state without a fault, for both values of OVF, CONV ends in a state
without a fault exactly when STAGE (COMPT ; COMPP ; COMPH) does, and in the same one. What CONV does from a state whose
FAULT is already 1 is said by `ConvComputesAllThree` and `ConvOverflowsExactlyOutsideWidth`. -/
def Obligations.ConvEqualsStagedSequence : Prop :=
  ∀ (s t : State) (rest : List HostAction), s.status.loaded = true → s.status.fault = false → t.status.fault = false →
    (exec (.conv false) { s with host := rest } = .next t ↔
      Sys2Proof.core.run 3 { s with host := AsmLine.stage.actions ++ rest } = .next t)

/-- R59: a LOAD writes all 18 coefficient registers or none; a CONV writes TFINE, T_OUT, P_OUT and H_OUT, and their status
bits, all together or not at all. -/
def Obligations.LoadAndConvAreAllOrNothing : Prop :=
  (∀ (s t : State) (a b c : Bool), exec (.load a b c) s = .next t →
    t.coef = s.coef ∨ (∀ r, t.x r = loadedValue s.params s.coefPort r)) ∧
  (∀ (s t : State) (rderr : Bool), exec (.conv rderr) s = .next t →
    t = { s with status := { s.status with err := t.status.err, fault := t.status.fault } } ∨
    (∃ (tf tv : Int) (r : Int × Bool) (h : HumidityResult),
      fineTemp s.params.ovf s.x (adcT s) = some tf ∧ tempOut s.params.ovf tf = some tv ∧
      pressure s.params.ovf s.x (adcP s) tf = some r ∧ humidity s.params s.x (adcH s) tf = some h ∧
      t = { s with
        tfine := BitVec.ofInt 32 tf, tOut := BitVec.ofInt 32 tv, pOut := BitVec.ofInt 32 r.1,
        hOut := BitVec.ofInt 32 h.out
        status := { s.status with
          tfv := true, tv := true, pv := true, hv := true, pz := r.2, hlo := h.lo, hhi := h.hi } }))

/-- R140, R205 for COMPT: with OVF = fault it completes with the exact results when every operation of R144 and R145 fits
32 bits, and raises OVERFLOW (code 14), writing nothing but STATUS, otherwise. -/
def Obligations.ComptOverflowsExactlyOutsideWidth : Prop :=
  ∀ (s : State) (tf : Int), s.status.loaded = true → s.params.ovf = .fault → tf = fineTempFormula id s.x (adcT s) →
    ((∀ e ∈ fineTempSteps s.x (adcT s) ++ tempOutSteps tf, fits 32 e) →
      exec (.compt false) s = .next (temperatureWritten tf (tempOutFormula id tf) s)) ∧
    (¬ (∀ e ∈ fineTempSteps s.x (adcT s) ++ tempOutSteps tf, fits 32 e) →
      exec (.compt false) s = .next (faultWritten 14 s))

/-- R140, R205 for COMPP: with OVF = fault it completes with the exact results when every operation R146 performs fits 64
bits, the quotient among them, and raises OVERFLOW otherwise. -/
def Obligations.ComppOverflowsExactlyOutsideWidth : Prop :=
  ∀ s : State, s.status.loaded = true → s.status.tfv = true → s.params.ovf = .fault →
    (pressureFits s.x (adcP s) s.tfine.toInt →
      exec (.compp false) s = .next (pressureWritten (pressureFormula id s.x (adcP s) s.tfine.toInt) s)) ∧
    (¬ pressureFits s.x (adcP s) s.tfine.toInt → exec (.compp false) s = .next (faultWritten 14 s))

/-- R140, R205 for COMPH: with OVF = fault it completes with the exact results when every operation of R149 fits 32 bits,
and raises OVERFLOW otherwise. -/
def Obligations.ComphOverflowsExactlyOutsideWidth : Prop :=
  ∀ s : State, s.status.loaded = true → s.status.tfv = true → s.params.ovf = .fault →
    ((∀ e ∈ humiditySteps s.x (adcH s) s.tfine.toInt, fits 32 e) →
      exec (.comph false) s = .next (humidityWritten (humidityFormula id s.x (adcH s) s.tfine.toInt) s)) ∧
    (¬ (∀ e ∈ humiditySteps s.x (adcH s) s.tfine.toInt, fits 32 e) →
      exec (.comph false) s = .next (faultWritten 14 s))

/-- The machine with OVF = fault refines the one with OVF = wrap: a command that ends without a fault gives the state the
wrapping machine gives. -/
def Obligations.FaultMachineRefinesWrapMachine : Prop :=
  ∀ (i : Instr) (s t : State), s.params.ovf = .fault → s.status.fault = false → t.status.fault = false →
    exec i s = .next t →
    exec i { s with params := { s.params with ovf := .wrap } } =
      .next { t with params := { s.params with ovf := .wrap } }

/-- R142: the quotient is truncated toward zero in all four sign cases, and tdiv(-2^63, -1) wraps to -2^63 or overflows. -/
def Obligations.DivisionTruncatesTowardZero : Prop :=
  (∀ a b : Int, b ≠ 0 → (tdiv a b).natAbs = a.natAbs / b.natAbs ∧
    (tdiv a b ≠ 0 → (0 < tdiv a b ↔ (0 < a ↔ 0 < b)))) ∧
  tdiv 7 2 = 3 ∧ tdiv (-7) 2 = -3 ∧ tdiv 7 (-2) = -3 ∧ tdiv (-7) (-2) = 3 ∧
  w64 .wrap (tdiv (-9223372036854775808) (-1)) = some (-9223372036854775808) ∧
  w64 .fault (tdiv (-9223372036854775808) (-1)) = none

/-! ### Faults, errors and control commands -/

/-- R202: CONV, COMPT, COMPP and COMPH with LOADED = 0 raise NOT_LOADED (code 11), whatever their flag and TFV are, and
write no output. -/
def Obligations.SampleCommandsFaultUntilLoaded : Prop :=
  ∀ (s : State) (rderr : Bool), s.status.loaded = false →
    exec (.conv rderr) s = .next (faultWritten 11 s) ∧ exec (.compt rderr) s = .next (faultWritten 11 s) ∧
    exec (.compp rderr) s = .next (faultWritten 11 s) ∧ exec (.comph rderr) s = .next (faultWritten 11 s)

/-- R203: COMPP and COMPH with TFV = 0 (and LOADED = 1, which is checked first) raise TFINE_INVALID (code 12). -/
def Obligations.PressureAndHumidityNeedTfine : Prop :=
  ∀ (s : State) (rderr : Bool), s.status.loaded = true → s.status.tfv = false →
    exec (.compp rderr) s = .next (faultWritten 12 s) ∧ exec (.comph rderr) s = .next (faultWritten 12 s)

/-- RDERR on a sample command that passes its checks reports code 9 and changes nothing else: the previous sample stays. -/
def Obligations.FailedSampleReadIsReported : Prop :=
  ∀ s : State, s.status.loaded = true →
    exec (.conv true) s = .next (errorWritten 9 s) ∧ exec (.compt true) s = .next (errorWritten 9 s) ∧
    (s.status.tfv = true →
      exec (.compp true) s = .next (errorWritten 9 s) ∧ exec (.comph true) s = .next (errorWritten 9 s))

/-- R200: every command ends in exactly one of three ways. It completes, and neither ERR (but for CLRERR) nor FAULT
changes; it reports an error, which changes no register of results or coefficients and not FAULT; or it faults, and
nothing but ERR and FAULT changes. -/
def Obligations.EveryCommandEndsOneOfThreeWays : Prop :=
  ∀ (i : Instr) (s : State), ∃ t : State, exec i s = .next t ∧
    ((t.status.fault = s.status.fault ∧ (t.status.err = s.status.err ∨ (i = .clrerr ∧ t.status.err = 0))) ∨
     ((t.status.err = 5 ∨ t.status.err = 6 ∨ t.status.err = 9) ∧
       t = { s with status := { s.status with
         err := t.status.err, loaded := t.status.loaded, tfv := t.status.tfv } }) ∨
     ((t.status.err = 11 ∨ t.status.err = 12 ∨ t.status.err = 14) ∧ t = faultWritten t.status.err s))

/-- R208: the state after a faulting command word is the state before it, except ERR and FAULT. -/
def Obligations.FaultsArePrecise : Prop :=
  ∀ (s t : State) (w : CmdWord) (rest : List HostAction), s.host = .command w :: rest → step s = .next t →
    s.status.fault = false → t.status.fault = true →
    t = { s with host := rest, status := { s.status with err := t.status.err, fault := true } } ∧
    (t.status.err = 11 ∨ t.status.err = 12 ∨ t.status.err = 13 ∨ t.status.err = 14)

/-- FAULT is sticky: no command, image or read clears it; only reset does. -/
def Obligations.OnlyResetClearsFault : Prop :=
  (∀ s t : State, step s = .next t → s.status.fault = true → t.status.fault = false →
    ∃ rest, s.host = .reset :: rest) ∧
  (∀ (s : State) (rest : List HostAction), s.host = .reset :: rest →
    ∃ t, step s = .next t ∧ t.status.fault = false)

/-- R190: NOP changes nothing in any state, and every other word with OP = 0 is ILLEGAL. -/
def Obligations.NopChangesNothing : Prop :=
  (∀ s : State, exec .nop s = .next s) ∧
  (∀ (s : State) (w : CmdWord) (rest : List HostAction), s.host = .command w :: rest → w.toNat % 16 = 0 →
    step s = .next (if w = 0 then { s with host := rest } else faultWritten 13 { s with host := rest }))

/-- R191: CLRERR sets ERR to 0 and changes nothing else, FAULT included, and every other word with OP = 6 is ILLEGAL. -/
def Obligations.ClrerrClearsErrOnly : Prop :=
  (∀ s : State, exec .clrerr s = .next { s with status := { s.status with err := 0 } }) ∧
  (∀ (s : State) (w : CmdWord) (rest : List HostAction), s.host = .command w :: rest → w.toNat % 16 = 6 →
    step s = .next (if w = 6 then errorWritten 0 { s with host := rest } else faultWritten 13 { s with host := rest }))

/-- R192: UNLOAD clears LOADED and TFV and changes nothing else, and every other word with OP = 7 is ILLEGAL; after it the
sample commands fault with NOT_LOADED and no coefficient can be read. -/
def Obligations.UnloadInvalidatesCoefficients : Prop :=
  (∀ s : State, exec .unload s = .next { s with status := { s.status with loaded := false, tfv := false } }) ∧
  (∀ (s : State) (w : CmdWord) (rest : List HostAction), s.host = .command w :: rest → w.toNat % 16 = 7 →
    step s = .next (if w = 7
      then { s with host := rest, status := { s.status with loaded := false, tfv := false } }
      else faultWritten 13 { s with host := rest })) ∧
  (∀ s t : State, exec .unload s = .next t →
    (∀ rderr, exec (.conv rderr) t = .next (faultWritten 11 t) ∧ exec (.compt rderr) t = .next (faultWritten 11 t) ∧
      exec (.compp rderr) t = .next (faultWritten 11 t) ∧ exec (.comph rderr) t = .next (faultWritten 11 t)) ∧
    (∀ r, readPort (.coef r) t = .fault (.noValueRead (.coef r))) ∧
    readPort (.out .tfine) t = .fault (.noValueRead (.out .tfine)))

/-- R31: TFV becomes 1 only by a COMPT or a CONV that completes, becomes 0 by every LOAD and UNLOAD, and is left alone by
COMPP and COMPH. -/
def Obligations.TfvFollowsItsRule : Prop :=
  (∀ (i : Instr) (s t : State), exec i s = .next t → s.status.tfv = false → t.status.tfv = true →
    (i = .compt false ∨ i = .conv false) ∧ s.status.loaded = true ∧
    ∃ tf, fineTemp s.params.ovf s.x (adcT s) = some tf ∧ t.tfine = BitVec.ofInt 32 tf) ∧
  (∀ (s t : State) (a b c : Bool), exec (.load a b c) s = .next t ∨ exec .unload s = .next t → t.status.tfv = false) ∧
  (∀ (s t : State) (r : Bool), exec (.compp r) s = .next t ∨ exec (.comph r) s = .next t →
    t.status.tfv = s.status.tfv)

/-- R237: after a LOAD (successful or not) or an UNLOAD, TFV stays 0 through any commands that are neither COMPT nor CONV,
and COMPP and COMPH then fault, with TFINE_INVALID, or with NOT_LOADED where LOADED = 0, which is checked first (R209). -/
def Obligations.StaleTfineNeverMeetsNewCoefficients : Prop :=
  ∀ (s : State) (first : Instr) (ws : List CmdWord) (rest : List HostAction),
    (first = .unload ∨ ∃ a b c, first = .load a b c) →
    (∀ w ∈ ws, ∀ i, decode w = .command i → computesTfine i = false) →
    ∃ t : State,
      Sys2Proof.core.run (ws.length + 1)
        { s with host := .command (encode first) :: (ws.map HostAction.command ++ rest) } = .next t ∧
      t.status.tfv = false ∧
      (∀ rderr, exec (.compp rderr) t = .next (faultWritten (if t.status.loaded then 12 else 11) t) ∧
        exec (.comph rderr) t = .next (faultWritten (if t.status.loaded then 12 else 11) t))

/-- TV, PV and HV stay 1 under every command once set, and a command that changes T_OUT, P_OUT or H_OUT sets its bit. -/
def Obligations.OutputValidBitsStay : Prop :=
  ∀ (i : Instr) (s t : State), exec i s = .next t →
    (s.status.tv = true → t.status.tv = true) ∧ (s.status.pv = true → t.status.pv = true) ∧
    (s.status.hv = true → t.status.hv = true) ∧ (t.tOut ≠ s.tOut → t.status.tv = true) ∧
    (t.pOut ≠ s.pOut → t.status.pv = true) ∧ (t.hOut ≠ s.hOut → t.status.hv = true)

/-- Of STATUS a command reads only LOADED and TFV: with the other fields changed at will it writes the same registers. -/
def Obligations.CommandsReadOnlyLoadedAndTfv : Prop :=
  ∀ (i : Instr) (s : State) (st : Status), st.loaded = s.status.loaded → st.tfv = s.status.tfv →
    ∃ (t : State) (st' : Status), exec i s = .next t ∧ exec i { s with status := st } = .next { t with status := st' } ∧
      st'.loaded = t.status.loaded ∧ st'.tfv = t.status.tfv

/-- R156: the results of a complete conversion depend on the sample, the coefficients and the parameters, and on nothing
else a state holds. -/
def Obligations.ConversionDependsOnInputsOnly : Prop :=
  ∀ s s' t t' : State, s.params = s'.params → s.coef = s'.coef → s.samplePort = s'.samplePort →
    s.status.loaded = true → s'.status.loaded = true → s.status.fault = false → s'.status.fault = false →
    exec (.conv false) s = .next t → exec (.conv false) s' = .next t' →
    t.status.fault = t'.status.fault ∧
    (t.status.fault = false → t.tfine = t'.tfine ∧ t.tOut = t'.tOut ∧ t.pOut = t'.pOut ∧ t.hOut = t'.hOut ∧
      t.status.pz = t'.status.pz ∧ t.status.hlo = t'.status.hlo ∧ t.status.hhi = t'.status.hhi)

/-! ### State, reads and runs -/

/-- R29, R37: STATUS as the host reads it, bit by bit; bits 15:13 read 0. -/
def Obligations.StatusWordHasItsLayout : Prop :=
  ∀ st : Status,
    st.toWord.getLsbD 0 = st.loaded ∧ st.toWord.getLsbD 1 = st.tfv ∧ st.toWord.getLsbD 2 = st.tv ∧
    st.toWord.getLsbD 3 = st.pv ∧ st.toWord.getLsbD 4 = st.hv ∧ st.toWord.getLsbD 5 = st.pz ∧
    st.toWord.getLsbD 6 = st.hlo ∧ st.toWord.getLsbD 7 = st.hhi ∧ st.toWord.extractLsb' 8 4 = st.err ∧
    st.toWord.getLsbD 12 = st.fault ∧ st.toWord.extractLsb' 13 3 = 0

/-- R42, R230: the reset input, from any state, leaves STATUS = 0x0000 and no value in any coefficient or output register,
and the block ready: the next host action is the next step's. The state after reset is such a state. -/
def Obligations.ResetLeavesNoValue : Prop :=
  (∀ (s : State) (rest : List HostAction), s.host = .reset :: rest → ∃ t : State,
    step s = .next t ∧ t.host = rest ∧ t.status.toWord = 0 ∧
    (∀ r, readPort (.coef r) t = .fault (.noValueRead (.coef r))) ∧
    (∀ r, readPort (.out r) t = .fault (.noValueRead (.out r)))) ∧
  State.reset.status.toWord = 0 ∧
  (∀ r, readPort (.coef r) State.reset = .fault (.noValueRead (.coef r))) ∧
  (∀ r, readPort (.out r) State.reset = .fault (.noValueRead (.out r)))

/-- R24, R28: a read port returns its register's value exactly when the valid bit is 1 and is a fault of the reader
otherwise; STATUS always reads; and a host read that returns changes no state. R24 and R28 do not say what follows a
read of no value: that it ends the run, the last clause, is the model's choice (log 8, DEDUCED). -/
def Obligations.ReadPortsReturnValidRegistersOnly : Prop :=
  ∀ s : State,
    (∀ r, readPort (.coef r) s =
      if s.status.loaded then .next (s.x r) else .fault (.noValueRead (.coef r))) ∧
    readPort (.out .tfine) s = (if s.status.tfv then .next s.tfine.toInt else .fault (.noValueRead (.out .tfine))) ∧
    readPort (.out .tOut) s = (if s.status.tv then .next s.tOut.toInt else .fault (.noValueRead (.out .tOut))) ∧
    readPort (.out .pOut) s = (if s.status.pv then .next (s.pOut.toNat : Int) else .fault (.noValueRead (.out .pOut))) ∧
    readPort (.out .hOut) s = (if s.status.hv then .next (s.hOut.toNat : Int) else .fault (.noValueRead (.out .hOut))) ∧
    readPort .status s = .next (s.status.toWord.toNat : Int) ∧
    (∀ (p : ReadPort) (rest : List HostAction) (v : Int), s.host = .read p :: rest → readPort p s = .next v →
      step s = .next { s with host := rest }) ∧
    (∀ (p : ReadPort) (rest : List HostAction) (f : Fault), s.host = .read p :: rest → readPort p s = .fault f →
      step s = .fault f)

/-- The invariant that the whole-machine rules add up to is kept by every step, from every state that meets it. -/
def Obligations.StepKeepsInvariant : Prop :=
  ∀ s t : State, s.Inv → step s = .next t → t.Inv

/-- The state after reset meets the invariant (it rests on the values log 2 names for the unwritten registers). -/
def Obligations.ResetMeetsInvariant : Prop := State.reset.Inv

/-- No step changes the parameters, and a step takes exactly the host's next action. -/
def Obligations.StepKeepsParamsAndTakesOneAction : Prop :=
  ∀ s t : State, step s = .next t → t.params = s.params ∧ t.host = s.host.tail

/-- A register that holds no value can never be told from one with other contents: not by a read, not by a command, not
ever after (so the contents log 2 names at reset never matter). -/
def Obligations.HiddenContentsAreNeverObservable : Prop :=
  ∀ s s' : State, SameVisible s s' →
    observe s = observe s' ∧
    (∀ t, step s = .next t → ∃ t', step s' = .next t' ∧ SameVisible t t') ∧
    (∀ f, step s = .fault f → step s' = .fault f)

/-- R61: commands execute one at a time, in the order the host issues them, each with the images on the ports when it
executes: the state after a sequence of words and images is the fold of the command rules over it, and a host read after
it sees all its writes. The host's list is the model's form of the sequence (log 1), and `runRead` ends the run where
the read has no value (log 8). -/
def Obligations.RunIsFoldOfCommandRules : Prop :=
  ∀ (s : State) (xs : List RunInput) (rest : List HostAction),
    Sys2Proof.core.run xs.length { s with host := xs.map RunInput.action ++ rest } =
      .next (xs.foldl afterInput { s with host := rest }) ∧
    ∀ p : ReadPort,
      Sys2Proof.core.run (xs.length + 1) { s with host := xs.map RunInput.action ++ .read p :: rest } =
        runRead p (xs.foldl afterInput { s with host := rest })

/-- Whatever the host issues, images, legal and illegal words and resets, every action completes: a run stops only at a
read, and after the last action the state no longer changes (the idle step is the model's, log 1). -/
def Obligations.EveryRunWithoutReadsCompletes : Prop :=
  ∀ s : State, s.host.all notRead = true →
    ∃ t : State, t.host = [] ∧ ∀ k, s.host.length ≤ k → Sys2Proof.core.run k s = .next t

/-! ### The host's views -/

/-- With binary64 every P_OUT and H_OUT view is exact. -/
def Obligations.Binary64PressureAndHumidityViewsAreExact : Prop :=
  ∀ v : BitVec 32,
    (viewOf .binary64 .pressurePa (v.toNat : Int)).toRat = (v.toNat : ℚ) / 256 ∧
    (viewOf .binary64 .humidityPct (v.toNat : Int)).toRat = (v.toNat : ℚ) / 1024

/-- A view is the exact quotient rounded once, to nearest with ties to even: no other value of the format is nearer, and
on a tie the significand is even. -/
def Obligations.ViewsRoundToNearestEven : Prop :=
  ∀ (fmt : FloatFmt) (q : Quantity) (n : Int) (u : FloatVal), u.mant < 2 ^ precision fmt →
    (viewOf fmt q n).mant < 2 ^ precision fmt ∧
    ((viewOf fmt q n).toRat = u.toRat ∨
      |(viewOf fmt q n).toRat - (n : ℚ) / q.divisor| < |u.toRat - (n : ℚ) / q.divisor| ∨
      (|(viewOf fmt q n).toRat - (n : ℚ) / q.divisor| = |u.toRat - (n : ℚ) / q.divisor| ∧
        (viewOf fmt q n).mant % 2 = 0))

/-- R158: when STATUS.PZ = 1, P_OUT = 0 and the pressure view is +0.0 exactly, in either format. -/
def Obligations.GuardViewIsPositiveZero : Prop :=
  ∀ (s : State) (fmt : FloatFmt), s.Inv → s.status.pz = true →
    s.pOut = 0 ∧ s.view fmt .pressurePa = some { neg := false, mant := 0, exp := 0 }

/-! ### The image ports, and a complete conversion with OVF = fault -/

/-- R50 to R52: an image the host places stands on its own port, whole, and nothing else changes. That the action leaves
the host's list is the model's (log 1). -/
def Obligations.ImageActionsWriteTheirPort : Prop :=
  (∀ (s : State) (img : CoefImage) (rest : List HostAction), s.host = .coefImage img :: rest →
    step s = .next { s with host := rest, coefPort := img }) ∧
  (∀ (s : State) (img : SampleImage) (rest : List HostAction), s.host = .sampleImage img :: rest →
    step s = .next { s with host := rest, samplePort := img })

/-- R155, R140, R205 for CONV: with OVF = fault it completes with the exact results of all three quantities when every
operation of the three pipelines fits its width, and raises OVERFLOW (code 14), writing nothing but STATUS, when one in
any of them does not. Which operations count is log 12 (DEDUCED). -/
def Obligations.ConvOverflowsExactlyOutsideWidth : Prop :=
  ∀ (s : State) (tf : Int), s.status.loaded = true → s.params.ovf = .fault → tf = fineTempFormula id s.x (adcT s) →
    (convFits s.x (adcP s) (adcT s) (adcH s) tf →
      exec (.conv false) s =
        .next (humidityWritten (humidityFormula id s.x (adcH s) tf)
          (pressureWritten (pressureFormula id s.x (adcP s) tf)
            (temperatureWritten tf (tempOutFormula id tf) s)))) ∧
    (¬ convFits s.x (adcP s) (adcT s) (adcH s) tf → exec (.conv false) s = .next (faultWritten 14 s))
end

