-- ==== Sys2Proof/Laws/Arith.lean ====
section
/-! SUPPORT. What the width operations of R9 and R140 can answer. -/

namespace Sys2Proof.Machine

/-- The wrap is the balanced remainder modulo 2^N. -/
theorem wrap_eq_bmod (n : Nat) (hn : 0 < n) (v : Int) : wrap n v = Int.bmod v (2 ^ n) := by
  have hpos : (0 : Int) < 2 ^ n := by positivity
  have h0 : 0 ≤ v % 2 ^ n := Int.emod_nonneg _ hpos.ne'
  obtain ⟨k, rfl⟩ : ∃ k, n = k + 1 := ⟨n - 1, by omega⟩
  have hN : ((2 * (v % 2 ^ (k + 1)).toNat < 2 ^ (k + 1)) ↔ 2 * (v % 2 ^ (k + 1)) < 2 ^ (k + 1)) := by
    zify
    rw [Int.toNat_of_nonneg h0]
  unfold wrap sext Int.bmod
  simp only [hN, Int.toNat_of_nonneg h0, Nat.cast_pow, Nat.cast_ofNat]
  rw [pow_succ]
  generalize (2 : Int) ^ k = m at *
  split <;> split <;> omega

/-- A wrapped value lies in the signed range. -/
theorem wrap_range (n : Nat) (hn : 0 < n) (v : Int) : -2 ^ (n - 1) ≤ wrap n v ∧ wrap n v < 2 ^ (n - 1) := by
  obtain ⟨k, rfl⟩ : ∃ k, n = k + 1 := ⟨n - 1, by omega⟩
  rw [wrap_eq_bmod _ hn]
  have hk : (0 : Int) < 2 ^ k := by positivity
  have hk' : 0 < 2 ^ (k + 1) := by positivity
  have h1 := Int.le_bmod (x := v) (m := 2 ^ (k + 1)) hk'
  have h2 := Int.bmod_lt (x := v) (m := 2 ^ (k + 1)) hk'
  have hs : (2 : Int) ^ (k + 1) = 2 ^ k * 2 := pow_succ _ _
  push_cast at h1 h2
  rw [hs] at h1 h2
  simp only [Nat.add_sub_cancel]
  omega

/-- A value in the signed range is its own wrap. -/
theorem wrap_of_range (n : Nat) (hn : 0 < n) (v : Int) (h : -2 ^ (n - 1) ≤ v ∧ v < 2 ^ (n - 1)) : wrap n v = v := by
  obtain ⟨k, rfl⟩ : ∃ k, n = k + 1 := ⟨n - 1, by omega⟩
  rw [wrap_eq_bmod _ hn]
  simp only [Nat.add_sub_cancel] at h
  apply Int.bmod_eq_of_le_mul_two
  · push_cast; rw [pow_succ]; omega
  · push_cast; rw [pow_succ]; omega

/-- A value is its own wrap exactly when it lies in the signed range. -/
theorem wrap_eq_self_iff (n : Nat) (hn : 0 < n) (v : Int) :
    wrap n v = v ↔ -2 ^ (n - 1) ≤ v ∧ v < 2 ^ (n - 1) :=
  ⟨fun h => h ▸ wrap_range n hn v, wrap_of_range n hn v⟩

/-- With `OVF` = wrap every operation has a result. -/
@[simp] theorem held_wrap (n : Nat) (v : Int) : held .wrap n v = some (wrap n v) := rfl

@[simp] theorem w32_wrap (v : Int) : w32 .wrap v = some (wrap 32 v) := rfl

@[simp] theorem w64_wrap (v : Int) : w64 .wrap v = some (wrap 64 v) := rfl

/-- With `OVF` = fault an operation has its exact result, or none. -/
theorem held_fault (n : Nat) (hn : 0 < n) (v : Int) :
    held .fault n v = if -2 ^ (n - 1) ≤ v ∧ v < 2 ^ (n - 1) then some v else none := by
  simp only [held, wrap_eq_self_iff n hn]

theorem w32_fault (v : Int) : w32 .fault v = if -2147483648 ≤ v ∧ v < 2147483648 then some v else none := by
  have := held_fault 32 (by decide) v
  norm_num at this
  exact this

theorem w64_fault (v : Int) :
    w64 .fault v = if -9223372036854775808 ≤ v ∧ v < 9223372036854775808 then some v else none := by
  have := held_fault 64 (by decide) v
  norm_num at this
  exact this

/-- Whatever `OVF` is, a held result is the wrapped one. -/
theorem held_eq_wrap {ovf : Ovf} {n : Nat} {v r : Int} (h : held ovf n v = some r) : r = wrap n v := by
  cases ovf <;> simp only [held] at h
  · exact (Option.some.inj h).symm
  · split at h
    · rename_i hw; rw [hw]; exact (Option.some.inj h).symm
    · cases h

/-- A 32-bit result lies in the signed 32-bit range. -/
theorem w32_range {ovf : Ovf} {v r : Int} (h : w32 ovf v = some r) : -2147483648 ≤ r ∧ r < 2147483648 := by
  have := wrap_range 32 (by decide) v
  rw [← held_eq_wrap h] at this
  norm_num at this
  exact this

/-- A 64-bit result lies in the signed 64-bit range. -/
theorem w64_range {ovf : Ovf} {v r : Int} (h : w64 ovf v = some r) :
    -9223372036854775808 ≤ r ∧ r < 9223372036854775808 := by
  have := wrap_range 64 (by decide) v
  rw [← held_eq_wrap h] at this
  norm_num at this
  exact this

/-- What the fault machine holds, the wrap machine holds too. -/
theorem w32_wrap_of {ovf : Ovf} {v r : Int} (h : w32 ovf v = some r) : w32 .wrap v = some r := by
  rw [w32_wrap, held_eq_wrap h]

theorem w64_wrap_of {ovf : Ovf} {v r : Int} (h : w64 ovf v = some r) : w64 .wrap v = some r := by
  rw [w64_wrap, held_eq_wrap h]

/-- A signed 32-bit integer survives storage in a 32-bit register. -/
theorem toInt_ofInt_32 {v : Int} (h : -2147483648 ≤ v ∧ v < 2147483648) : (BitVec.ofInt 32 v).toInt = v := by
  rw [BitVec.toInt_ofInt]
  apply Int.bmod_eq_of_le_mul_two <;> norm_num <;> omega

/-- An unsigned 32-bit integer survives storage in a 32-bit register. -/
theorem toNat_ofInt_32 {v : Int} (h : 0 ≤ v ∧ v < 4294967296) : ((BitVec.ofInt 32 v).toNat : Int) = v := by
  rw [BitVec.toNat_ofInt, Int.toNat_of_nonneg (Int.emod_nonneg _ (by norm_num))]
  exact Int.emod_eq_of_lt h.1 (by norm_num; omega)

/-- `u32` gives an unsigned 32-bit value. -/
theorem u32_range (v : Int) : 0 ≤ u32 v ∧ u32 v < 4294967296 :=
  ⟨Int.emod_nonneg _ (by norm_num), Int.emod_lt_of_pos _ (by norm_num)⟩

/-- The clamp's range. -/
theorem clamp_range {v lo hi : Int} (h : lo ≤ hi) : lo ≤ clamp v lo hi ∧ clamp v lo hi ≤ hi := by
  unfold clamp; split <;> [skip; split] <;> omega

end Sys2Proof.Machine
end

