-- ==== Sys2Proof/Laws/Decode.lean ====
section
/-! SUPPORT. The fields of a command word (30_encoding.md R70). -/

namespace Sys2Proof

/-- A word is its three fields. -/
theorem word_split (w : CmdWord) : w = fieldRsv w ++ fieldFlags w ++ fieldOp w := by
  apply BitVec.eq_of_getLsbD_eq
  intro i hi
  simp only [fieldRsv, fieldFlags, fieldOp, BitVec.getLsbD_append, BitVec.getLsbD_extractLsb']
  interval_cases i <;> simp

/-- A word whose RSV is not 0 is no command (R73). -/
theorem decode_of_rsv {w : CmdWord} (h : fieldRsv w ≠ 0#8) : decode w = .illegal .reservedBits := by
  simp only [decode, h, ne_eq, not_false_eq_true, if_true]

/-- Every command's word has RSV = 0 and F3 = 0 (R70, R72). -/
theorem encode_reserved (i : Instr) : fieldRsv (encode i) = 0#8 ∧ (fieldFlags (encode i)).getLsbD 3 = false := by
  cases i with
  | nop => decide
  | load a b c => cases a <;> cases b <;> cases c <;> decide
  | conv r => cases r <;> decide
  | compt r => cases r <;> decide
  | compp r => cases r <;> decide
  | comph r => cases r <;> decide
  | clrerr => decide
  | unload => decide

end Sys2Proof
end

