-- ==== Sys2Proof/Laws/Operands.lean ====
section
/-! SUPPORT. What the image reads, the coefficient decoder and the raw-sample extractor can answer. -/

namespace Sys2Proof.Machine

/-- An image byte is a byte. -/
theorem imageByte_lt {n : Nat} (img : BitVec n) (k : Nat) : imageByte img k < 256 :=
  (img.extractLsb' (8 * k) 8).isLt

theorem memRead_one {n : Nat} (img : BitVec n) (a : Nat) : memRead img a 1 = imageByte img a := by
  simp [memRead]

theorem memRead_two {n : Nat} (img : BitVec n) (a : Nat) :
    memRead img a 2 = imageByte img a + 256 * imageByte img (a + 1) := by
  simp only [memRead]; norm_num; omega

theorem memReadBE_two {n : Nat} (img : BitVec n) (a : Nat) :
    memReadBE img a 2 = imageByte img a * 256 + imageByte img (a + 1) := by
  simp [memReadBE]

theorem memReadBE_three {n : Nat} (img : BitVec n) (a : Nat) :
    memReadBE img a 3 = imageByte img a * 65536 + imageByte img (a + 1) * 256 + imageByte img (a + 2) := by
  simp only [memReadBE]; norm_num; omega

theorem sext_8 (v : Nat) : sext 8 v = if v < 128 then (v : Int) else (v : Int) - 256 := by
  unfold sext; norm_num; congr 1; exact propext ⟨fun h => by omega, fun h => by omega⟩

theorem sext_16 (v : Nat) : sext 16 v = if v < 32768 then (v : Int) else (v : Int) - 65536 := by
  unfold sext; norm_num; congr 1; exact propext ⟨fun h => by omega, fun h => by omega⟩

theorem toInt_ofInt_16 {v : Int} (h : -32768 ≤ v ∧ v < 32768) : (BitVec.ofInt 16 v).toInt = v := by
  rw [BitVec.toInt_ofInt]
  apply Int.bmod_eq_of_le_mul_two <;> norm_num <;> omega

theorem toInt_ofInt_8 {v : Int} (h : -128 ≤ v ∧ v < 128) : (BitVec.ofInt 8 v).toInt = v := by
  rw [BitVec.toInt_ofInt]
  apply Int.bmod_eq_of_le_mul_two <;> norm_num <;> omega

theorem toNat_ofInt_16 {v : Int} (h : 0 ≤ v ∧ v < 65536) : ((BitVec.ofInt 16 v).toNat : Int) = v := by
  rw [BitVec.toNat_ofInt, Int.toNat_of_nonneg (Int.emod_nonneg _ (by norm_num))]
  exact Int.emod_eq_of_lt h.1 (by norm_num; omega)

theorem toNat_ofInt_8 {v : Int} (h : 0 ≤ v ∧ v < 256) : ((BitVec.ofInt 8 v).toNat : Int) = v := by
  rw [BitVec.toNat_ofInt, Int.toNat_of_nonneg (Int.emod_nonneg _ (by norm_num))]
  exact Int.emod_eq_of_lt h.1 (by norm_num; omega)

/-- A signed 16-bit field lies in its range (R102). -/
theorem field16_s16_range {w : Nat} (h : w < 65536) : -32768 ≤ field16 w .s16 ∧ field16 w .s16 < 32768 := by
  simp only [field16, sext_16]; split <;> omega

/-- An unsigned 16-bit field lies in its range (R102). -/
theorem field16_u16_range {w : Nat} (h : w < 65536) : 0 ≤ field16 w .u16 ∧ field16 w .u16 < 65536 := by
  simp only [field16]; omega

/-- H4 and H5 lie in the range 10_state.md R22 gives them for each value of `H45_SEXT`. -/
theorem unpack12_range (b : Bool) {hi lo : Nat} (hh : hi < 256) (hl : lo < 16) :
    if b then -2048 ≤ unpack12 b hi lo ∧ unpack12 b hi lo ≤ 2047
    else 0 ≤ unpack12 b hi lo ∧ unpack12 b hi lo ≤ 4095 := by
  cases b <;> simp only [unpack12, sext_8, if_true, Bool.false_eq_true, if_false]
  · omega
  · split <;> omega

theorem memRead_two_lt {n : Nat} (img : BitVec n) (a : Nat) : memRead img a 2 < 65536 := by
  have h0 := imageByte_lt img a
  have h1 := imageByte_lt img (a + 1)
  rw [memRead_two]; omega

theorem memRead_one_lt {n : Nat} (img : BitVec n) (a : Nat) : memRead img a 1 < 256 := by
  rw [memRead_one]; exact imageByte_lt img a

theorem lowNibble_lt (b : Nat) : lowNibble b < 16 := by unfold lowNibble; omega

theorem highNibble_lt (b : Nat) : highNibble b < 16 := by unfold highNibble; omega

theorem sext_8_range {v : Nat} (h : v < 256) : -128 ≤ sext 8 v ∧ sext 8 v < 128 := by
  rw [sext_8]; split <;> omega

/-- `unpack12` fits a signed 16-bit register. -/
theorem unpack12_fits (b : Bool) {hi lo : Nat} (hh : hi < 256) (hl : lo < 16) :
    -32768 ≤ unpack12 b hi lo ∧ unpack12 b hi lo < 32768 := by
  have := unpack12_range b hh hl
  cases b <;> simp only [if_true, Bool.false_eq_true, if_false] at this <;> omega

/-- "The conversion is exact" (R102): every register reads back the integer LOAD put into it. -/
theorem value_ofValues_loadedValue (p : Params) (img : CoefImage) (r : CoefReg) :
    (CoefFile.ofValues (loadedValue p img)).value p r = loadedValue p img r := by
  cases r <;>
    simp only [CoefFile.value, CoefFile.ofValues, loadedValue]
  case t1 => exact toNat_ofInt_16 (field16_u16_range (memRead_two_lt _ _))
  case p1 =>
    unfold p1Kind
    split
    · exact toInt_ofInt_16 (field16_s16_range (memRead_two_lt _ _))
    · exact toNat_ofInt_16 (field16_u16_range (memRead_two_lt _ _))
  case h1 => exact toNat_ofInt_8 ⟨by omega, by exact_mod_cast memRead_one_lt _ _⟩
  case h2 => exact toInt_ofInt_16 (field16_s16_range (memRead_two_lt _ _))
  case h3 => exact toNat_ofInt_8 ⟨by omega, by exact_mod_cast memRead_one_lt _ _⟩
  case h4 => exact toInt_ofInt_16 (unpack12_fits _ (memRead_one_lt _ _) (lowNibble_lt _))
  case h5 => exact toInt_ofInt_16 (unpack12_fits _ (memRead_one_lt _ _) (highNibble_lt _))
  case h6 => exact toInt_ofInt_8 (sext_8_range (memRead_one_lt _ _))
  all_goals exact toInt_ofInt_16 (field16_s16_range (memRead_two_lt _ _))

end Sys2Proof.Machine
end

