-- ==== Sys2Proof/Laws/Pipeline.lean ====
section
/-! SUPPORT. What the pipelines can answer: their ranges, that the fault machine's results are the wrap machine's, and
that the wrap machine always has one. -/

namespace Sys2Proof.Machine

/-- A partial result is kept by another computation. -/
def Refines {α : Type} (a b : Option α) : Prop := ∀ r, a = some r → b = some r

theorem Refines.refl {α : Type} (a : Option α) : Refines a a := fun _ h => h

/-- Refinement goes through a sequence of operations. -/
theorem Refines.bind {α β : Type} {a b : Option α} {f g : α → Option β}
    (h : Refines a b) (hf : ∀ v, Refines (f v) (g v)) : Refines (a >>= f) (b >>= g) := by
  intro r hr
  cases ha : a with
  | none => rw [ha] at hr; cases hr
  | some v =>
    rw [ha] at hr
    rw [h v ha]
    exact hf v r hr

theorem w32_refines (ovf : Ovf) (v : Int) : Refines (w32 ovf v) (w32 .wrap v) := fun _ h => w32_wrap_of h

theorem w64_refines (ovf : Ovf) (v : Int) : Refines (w64 ovf v) (w64 .wrap v) := fun _ h => w64_wrap_of h

theorem fineTemp_refines (ovf : Ovf) (x : CoefReg → Int) (adcT : Int) :
    Refines (fineTemp ovf x adcT) (fineTemp .wrap x adcT) := by
  unfold fineTemp
  repeat' first
    | exact Refines.refl _
    | exact w32_refines _ _
    | (apply Refines.bind (w32_refines _ _); intro _)

theorem tempOut_refines (ovf : Ovf) (tf : Int) : Refines (tempOut ovf tf) (tempOut .wrap tf) := by
  unfold tempOut
  repeat' first
    | exact Refines.refl _
    | (apply Refines.bind (w32_refines _ _); intro _)

theorem pressureTerms_refines (ovf : Ovf) (x : CoefReg → Int) (tf : Int) :
    Refines (pressureTerms ovf x tf) (pressureTerms .wrap x tf) := by
  unfold pressureTerms
  repeat' first
    | exact Refines.refl _
    | (apply Refines.bind (w64_refines _ _); intro _)

theorem pressureQuotient_refines (ovf : Ovf) (x : CoefReg → Int) (adcP : Int) (t : PressureTerms) :
    Refines (pressureQuotient ovf x adcP t) (pressureQuotient .wrap x adcP t) := by
  unfold pressureQuotient
  repeat' first
    | exact Refines.refl _
    | exact w64_refines _ _
    | (apply Refines.bind (w64_refines _ _); intro _)

theorem pressure_refines (ovf : Ovf) (x : CoefReg → Int) (adcP tf : Int) :
    Refines (pressure ovf x adcP tf) (pressure .wrap x adcP tf) := by
  unfold pressure
  apply Refines.bind (pressureTerms_refines _ _ _)
  intro t
  split
  · exact Refines.refl _
  · exact Refines.bind (pressureQuotient_refines _ _ _ _) fun _ => Refines.refl _

theorem humidityUnclamped_refines (ovf : Ovf) (x : CoefReg → Int) (adcH tf : Int) :
    Refines (humidityUnclamped ovf x adcH tf) (humidityUnclamped .wrap x adcH tf) := by
  unfold humidityUnclamped
  repeat' first
    | exact w32_refines _ _
    | (apply Refines.bind (w32_refines _ _); intro _)

theorem humidity_refines (p : Params) (x : CoefReg → Int) (adcH tf : Int) :
    Refines (humidity p x adcH tf) (humidity { p with ovf := .wrap } x adcH tf) := by
  unfold humidity
  exact Refines.bind (humidityUnclamped_refines _ _ _ _) fun _ => Refines.refl _

/-- A sequence has a result exactly through a result of its first operation. -/
theorem bind_some {α β : Type} {a : Option α} {f : α → Option β} {r : β} (h : (a >>= f) = some r) :
    ∃ v, a = some v ∧ f v = some r := by
  cases ha : a with
  | none => rw [ha] at h; cases h
  | some v => rw [ha] at h; exact ⟨v, rfl, h⟩

/-- A sequence of operations that all have results has one. -/
theorem total_bind {α β : Type} {a : Option α} {f : α → Option β} (ha : ∃ r, a = some r)
    (hf : ∀ v, ∃ r, f v = some r) : ∃ r, (a >>= f) = some r := by
  obtain ⟨v, rfl⟩ := ha
  exact hf v

theorem w32_wrap_total (v : Int) : ∃ r, w32 .wrap v = some r := ⟨_, rfl⟩

theorem w64_wrap_total (v : Int) : ∃ r, w64 .wrap v = some r := ⟨_, rfl⟩

/-- With `OVF` = wrap every pipeline has a result (R140). -/
theorem fineTemp_wrap_total (x : CoefReg → Int) (adcT : Int) : ∃ r, fineTemp .wrap x adcT = some r := ⟨_, rfl⟩

theorem tempOut_wrap_total (tf : Int) : ∃ r, tempOut .wrap tf = some r := ⟨_, rfl⟩

theorem pressureTerms_wrap_total (x : CoefReg → Int) (tf : Int) : ∃ r, pressureTerms .wrap x tf = some r := ⟨_, rfl⟩

theorem pressureQuotient_wrap_total (x : CoefReg → Int) (adcP : Int) (t : PressureTerms) :
    ∃ r, pressureQuotient .wrap x adcP t = some r := ⟨_, rfl⟩

theorem pressure_wrap_total (x : CoefReg → Int) (adcP tf : Int) : ∃ r, pressure .wrap x adcP tf = some r := by
  unfold pressure
  refine total_bind (pressureTerms_wrap_total _ _) fun t => ?_
  split
  · exact ⟨_, rfl⟩
  · exact total_bind (pressureQuotient_wrap_total _ _ _) fun _ => ⟨_, rfl⟩

theorem humidityUnclamped_wrap_total (x : CoefReg → Int) (adcH tf : Int) :
    ∃ r, humidityUnclamped .wrap x adcH tf = some r := ⟨_, rfl⟩

theorem humidity_wrap_total {p : Params} (hp : p.ovf = .wrap) (x : CoefReg → Int) (adcH tf : Int) :
    ∃ r, humidity p x adcH tf = some r := by
  unfold humidity
  rw [hp]
  exact total_bind (humidityUnclamped_wrap_total _ _ _) fun _ => ⟨_, rfl⟩

/-- t_fine is a signed 32-bit value (R144). -/
theorem fineTemp_range {ovf : Ovf} {x : CoefReg → Int} {adcT r : Int} (h : fineTemp ovf x adcT = some r) :
    -2147483648 ≤ r ∧ r < 2147483648 := by
  unfold fineTemp at h
  iterate 6 (replace h := (bind_some h).choose_spec.2)
  exact w32_range h

/-- T_OUT's range (R145): a signed 32-bit value shifted right by 8. -/
theorem tempOut_range {ovf : Ovf} {tf r : Int} (h : tempOut ovf tf = some r) : -8388608 ≤ r ∧ r < 8388608 := by
  unfold tempOut at h
  obtain ⟨_, -, h⟩ := bind_some h
  obtain ⟨v, hv, h⟩ := bind_some h
  have hr := w32_range hv
  obtain rfl := Option.some.inj h
  rw [asr]
  omega

/-- P_OUT is an unsigned 32-bit value, and the guard's is 0 (R147, R148). -/
theorem pressure_range {ovf : Ovf} {x : CoefReg → Int} {adcP tf : Int} {r : Int × Bool}
    (h : pressure ovf x adcP tf = some r) : 0 ≤ r.1 ∧ r.1 < 4294967296 ∧ (r.2 = true → r.1 = 0) := by
  unfold pressure at h
  obtain ⟨t, -, h⟩ := bind_some h
  split at h
  · obtain rfl := (Option.some.inj h).symm; simp
  · obtain ⟨p, -, h⟩ := bind_some h
    obtain rfl := (Option.some.inj h).symm
    exact ⟨(u32_range _).1, (u32_range _).2, by simp⟩

/-- What the clamp and the output shift can answer (R150, R151). -/
theorem humidityFinish_spec (shift : HumOutShift) (v : Int) :
    0 ≤ (humidityFinish shift v).out ∧
    (humidityFinish shift v).out ≤ asr humidityMax (humOutShiftAmount shift) ∧
    ((humidityFinish shift v).lo = true → (humidityFinish shift v).out = 0) ∧
    ((humidityFinish shift v).hi = true →
      (humidityFinish shift v).out = asr humidityMax (humOutShiftAmount shift)) ∧
    ¬ ((humidityFinish shift v).lo = true ∧ (humidityFinish shift v).hi = true) := by
  cases shift <;> simp only [humidityFinish, humOutShiftAmount, asr, clamp, humidityMax, decide_eq_true_eq] <;>
    norm_num <;> refine ⟨?_, ?_, ?_, ?_, ?_⟩ <;> (try intro) <;> (try split_ifs) <;> omega

theorem humidity_spec {p : Params} {x : CoefReg → Int} {adcH tf : Int} {h : HumidityResult}
    (e : humidity p x adcH tf = some h) : ∃ v, humidityUnclamped p.ovf x adcH tf = some v ∧
      h = humidityFinish p.humOutShift v := by
  unfold humidity at e
  cases hv : humidityUnclamped p.ovf x adcH tf with
  | none => rw [hv] at e; cases e
  | some v => rw [hv] at e; exact ⟨v, rfl, (Option.some.inj e).symm⟩

/-- H_OUT's largest value fits its register. -/
theorem humidityMax_fits (shift : HumOutShift) : asr humidityMax (humOutShiftAmount shift) < 4294967296 := by
  cases shift <;> decide

end Sys2Proof.Machine
end

