-- ==== Sys2Proof/Laws/State.lean ====
section
/-! SUPPORT. One lemma per field of State and per update, so that no later proof unfolds a record update. -/

namespace Sys2Proof.Machine

variable (s : State)

@[simp] theorem State.withStatus_params (st : Status) : (s.withStatus st).params = s.params := rfl
@[simp] theorem State.withStatus_coef (st : Status) : (s.withStatus st).coef = s.coef := rfl
@[simp] theorem State.withStatus_tfine (st : Status) : (s.withStatus st).tfine = s.tfine := rfl
@[simp] theorem State.withStatus_tOut (st : Status) : (s.withStatus st).tOut = s.tOut := rfl
@[simp] theorem State.withStatus_pOut (st : Status) : (s.withStatus st).pOut = s.pOut := rfl
@[simp] theorem State.withStatus_hOut (st : Status) : (s.withStatus st).hOut = s.hOut := rfl
@[simp] theorem State.withStatus_status (st : Status) : (s.withStatus st).status = st := rfl
@[simp] theorem State.withStatus_coefPort (st : Status) : (s.withStatus st).coefPort = s.coefPort := rfl
@[simp] theorem State.withStatus_samplePort (st : Status) : (s.withStatus st).samplePort = s.samplePort := rfl
@[simp] theorem State.withStatus_host (st : Status) : (s.withStatus st).host = s.host := rfl

@[simp] theorem State.withCoef_params (c : CoefFile) : (s.withCoef c).params = s.params := rfl
@[simp] theorem State.withCoef_coef (c : CoefFile) : (s.withCoef c).coef = c := rfl
@[simp] theorem State.withCoef_tfine (c : CoefFile) : (s.withCoef c).tfine = s.tfine := rfl
@[simp] theorem State.withCoef_tOut (c : CoefFile) : (s.withCoef c).tOut = s.tOut := rfl
@[simp] theorem State.withCoef_pOut (c : CoefFile) : (s.withCoef c).pOut = s.pOut := rfl
@[simp] theorem State.withCoef_hOut (c : CoefFile) : (s.withCoef c).hOut = s.hOut := rfl
@[simp] theorem State.withCoef_status (c : CoefFile) : (s.withCoef c).status = s.status := rfl
@[simp] theorem State.withCoef_coefPort (c : CoefFile) : (s.withCoef c).coefPort = s.coefPort := rfl
@[simp] theorem State.withCoef_samplePort (c : CoefFile) : (s.withCoef c).samplePort = s.samplePort := rfl
@[simp] theorem State.withCoef_host (c : CoefFile) : (s.withCoef c).host = s.host := rfl

@[simp] theorem State.withTfine_params (v : Int) : (s.withTfine v).params = s.params := rfl
@[simp] theorem State.withTfine_coef (v : Int) : (s.withTfine v).coef = s.coef := rfl
@[simp] theorem State.withTfine_tfine (v : Int) : (s.withTfine v).tfine = BitVec.ofInt 32 v := rfl
@[simp] theorem State.withTfine_tOut (v : Int) : (s.withTfine v).tOut = s.tOut := rfl
@[simp] theorem State.withTfine_pOut (v : Int) : (s.withTfine v).pOut = s.pOut := rfl
@[simp] theorem State.withTfine_hOut (v : Int) : (s.withTfine v).hOut = s.hOut := rfl
@[simp] theorem State.withTfine_status (v : Int) : (s.withTfine v).status = s.status := rfl
@[simp] theorem State.withTfine_coefPort (v : Int) : (s.withTfine v).coefPort = s.coefPort := rfl
@[simp] theorem State.withTfine_samplePort (v : Int) : (s.withTfine v).samplePort = s.samplePort := rfl
@[simp] theorem State.withTfine_host (v : Int) : (s.withTfine v).host = s.host := rfl

@[simp] theorem State.withTOut_params (v : Int) : (s.withTOut v).params = s.params := rfl
@[simp] theorem State.withTOut_coef (v : Int) : (s.withTOut v).coef = s.coef := rfl
@[simp] theorem State.withTOut_tfine (v : Int) : (s.withTOut v).tfine = s.tfine := rfl
@[simp] theorem State.withTOut_tOut (v : Int) : (s.withTOut v).tOut = BitVec.ofInt 32 v := rfl
@[simp] theorem State.withTOut_pOut (v : Int) : (s.withTOut v).pOut = s.pOut := rfl
@[simp] theorem State.withTOut_hOut (v : Int) : (s.withTOut v).hOut = s.hOut := rfl
@[simp] theorem State.withTOut_status (v : Int) : (s.withTOut v).status = s.status := rfl
@[simp] theorem State.withTOut_coefPort (v : Int) : (s.withTOut v).coefPort = s.coefPort := rfl
@[simp] theorem State.withTOut_samplePort (v : Int) : (s.withTOut v).samplePort = s.samplePort := rfl
@[simp] theorem State.withTOut_host (v : Int) : (s.withTOut v).host = s.host := rfl

@[simp] theorem State.withPOut_params (v : Int) : (s.withPOut v).params = s.params := rfl
@[simp] theorem State.withPOut_coef (v : Int) : (s.withPOut v).coef = s.coef := rfl
@[simp] theorem State.withPOut_tfine (v : Int) : (s.withPOut v).tfine = s.tfine := rfl
@[simp] theorem State.withPOut_tOut (v : Int) : (s.withPOut v).tOut = s.tOut := rfl
@[simp] theorem State.withPOut_pOut (v : Int) : (s.withPOut v).pOut = BitVec.ofInt 32 v := rfl
@[simp] theorem State.withPOut_hOut (v : Int) : (s.withPOut v).hOut = s.hOut := rfl
@[simp] theorem State.withPOut_status (v : Int) : (s.withPOut v).status = s.status := rfl
@[simp] theorem State.withPOut_coefPort (v : Int) : (s.withPOut v).coefPort = s.coefPort := rfl
@[simp] theorem State.withPOut_samplePort (v : Int) : (s.withPOut v).samplePort = s.samplePort := rfl
@[simp] theorem State.withPOut_host (v : Int) : (s.withPOut v).host = s.host := rfl

@[simp] theorem State.withHOut_params (v : Int) : (s.withHOut v).params = s.params := rfl
@[simp] theorem State.withHOut_coef (v : Int) : (s.withHOut v).coef = s.coef := rfl
@[simp] theorem State.withHOut_tfine (v : Int) : (s.withHOut v).tfine = s.tfine := rfl
@[simp] theorem State.withHOut_tOut (v : Int) : (s.withHOut v).tOut = s.tOut := rfl
@[simp] theorem State.withHOut_pOut (v : Int) : (s.withHOut v).pOut = s.pOut := rfl
@[simp] theorem State.withHOut_hOut (v : Int) : (s.withHOut v).hOut = BitVec.ofInt 32 v := rfl
@[simp] theorem State.withHOut_status (v : Int) : (s.withHOut v).status = s.status := rfl
@[simp] theorem State.withHOut_coefPort (v : Int) : (s.withHOut v).coefPort = s.coefPort := rfl
@[simp] theorem State.withHOut_samplePort (v : Int) : (s.withHOut v).samplePort = s.samplePort := rfl
@[simp] theorem State.withHOut_host (v : Int) : (s.withHOut v).host = s.host := rfl

@[simp] theorem State.withCoefPort_params (img : CoefImage) : (s.withCoefPort img).params = s.params := rfl
@[simp] theorem State.withCoefPort_coef (img : CoefImage) : (s.withCoefPort img).coef = s.coef := rfl
@[simp] theorem State.withCoefPort_tfine (img : CoefImage) : (s.withCoefPort img).tfine = s.tfine := rfl
@[simp] theorem State.withCoefPort_tOut (img : CoefImage) : (s.withCoefPort img).tOut = s.tOut := rfl
@[simp] theorem State.withCoefPort_pOut (img : CoefImage) : (s.withCoefPort img).pOut = s.pOut := rfl
@[simp] theorem State.withCoefPort_hOut (img : CoefImage) : (s.withCoefPort img).hOut = s.hOut := rfl
@[simp] theorem State.withCoefPort_status (img : CoefImage) : (s.withCoefPort img).status = s.status := rfl
@[simp] theorem State.withCoefPort_coefPort (img : CoefImage) : (s.withCoefPort img).coefPort = img := rfl
@[simp] theorem State.withCoefPort_samplePort (img : CoefImage) : (s.withCoefPort img).samplePort = s.samplePort := rfl
@[simp] theorem State.withCoefPort_host (img : CoefImage) : (s.withCoefPort img).host = s.host := rfl

@[simp] theorem State.withSamplePort_params (img : SampleImage) : (s.withSamplePort img).params = s.params := rfl
@[simp] theorem State.withSamplePort_coef (img : SampleImage) : (s.withSamplePort img).coef = s.coef := rfl
@[simp] theorem State.withSamplePort_tfine (img : SampleImage) : (s.withSamplePort img).tfine = s.tfine := rfl
@[simp] theorem State.withSamplePort_tOut (img : SampleImage) : (s.withSamplePort img).tOut = s.tOut := rfl
@[simp] theorem State.withSamplePort_pOut (img : SampleImage) : (s.withSamplePort img).pOut = s.pOut := rfl
@[simp] theorem State.withSamplePort_hOut (img : SampleImage) : (s.withSamplePort img).hOut = s.hOut := rfl
@[simp] theorem State.withSamplePort_status (img : SampleImage) : (s.withSamplePort img).status = s.status := rfl
@[simp] theorem State.withSamplePort_coefPort (img : SampleImage) : (s.withSamplePort img).coefPort = s.coefPort := rfl
@[simp] theorem State.withSamplePort_samplePort (img : SampleImage) : (s.withSamplePort img).samplePort = img := rfl
@[simp] theorem State.withSamplePort_host (img : SampleImage) : (s.withSamplePort img).host = s.host := rfl

@[simp] theorem State.withHost_params (h : List HostAction) : (s.withHost h).params = s.params := rfl
@[simp] theorem State.withHost_coef (h : List HostAction) : (s.withHost h).coef = s.coef := rfl
@[simp] theorem State.withHost_tfine (h : List HostAction) : (s.withHost h).tfine = s.tfine := rfl
@[simp] theorem State.withHost_tOut (h : List HostAction) : (s.withHost h).tOut = s.tOut := rfl
@[simp] theorem State.withHost_pOut (h : List HostAction) : (s.withHost h).pOut = s.pOut := rfl
@[simp] theorem State.withHost_hOut (h : List HostAction) : (s.withHost h).hOut = s.hOut := rfl
@[simp] theorem State.withHost_status (h : List HostAction) : (s.withHost h).status = s.status := rfl
@[simp] theorem State.withHost_coefPort (h : List HostAction) : (s.withHost h).coefPort = s.coefPort := rfl
@[simp] theorem State.withHost_samplePort (h : List HostAction) : (s.withHost h).samplePort = s.samplePort := rfl
@[simp] theorem State.withHost_host (h : List HostAction) : (s.withHost h).host = h := rfl

variable (st : Status)

@[simp] theorem Status.faulted_loaded (code : BitVec 4) : (st.faulted code).loaded = st.loaded := rfl
@[simp] theorem Status.faulted_tfv (code : BitVec 4) : (st.faulted code).tfv = st.tfv := rfl
@[simp] theorem Status.faulted_tv (code : BitVec 4) : (st.faulted code).tv = st.tv := rfl
@[simp] theorem Status.faulted_pv (code : BitVec 4) : (st.faulted code).pv = st.pv := rfl
@[simp] theorem Status.faulted_hv (code : BitVec 4) : (st.faulted code).hv = st.hv := rfl
@[simp] theorem Status.faulted_pz (code : BitVec 4) : (st.faulted code).pz = st.pz := rfl
@[simp] theorem Status.faulted_hlo (code : BitVec 4) : (st.faulted code).hlo = st.hlo := rfl
@[simp] theorem Status.faulted_hhi (code : BitVec 4) : (st.faulted code).hhi = st.hhi := rfl
@[simp] theorem Status.faulted_err (code : BitVec 4) : (st.faulted code).err = code := rfl
@[simp] theorem Status.faulted_fault (code : BitVec 4) : (st.faulted code).fault = true := rfl

@[simp] theorem Status.errored_loaded (code : BitVec 4) : (st.errored code).loaded = st.loaded := rfl
@[simp] theorem Status.errored_tfv (code : BitVec 4) : (st.errored code).tfv = st.tfv := rfl
@[simp] theorem Status.errored_tv (code : BitVec 4) : (st.errored code).tv = st.tv := rfl
@[simp] theorem Status.errored_pv (code : BitVec 4) : (st.errored code).pv = st.pv := rfl
@[simp] theorem Status.errored_hv (code : BitVec 4) : (st.errored code).hv = st.hv := rfl
@[simp] theorem Status.errored_pz (code : BitVec 4) : (st.errored code).pz = st.pz := rfl
@[simp] theorem Status.errored_hlo (code : BitVec 4) : (st.errored code).hlo = st.hlo := rfl
@[simp] theorem Status.errored_hhi (code : BitVec 4) : (st.errored code).hhi = st.hhi := rfl
@[simp] theorem Status.errored_err (code : BitVec 4) : (st.errored code).err = code := rfl
@[simp] theorem Status.errored_fault (code : BitVec 4) : (st.errored code).fault = st.fault := rfl

@[simp] theorem Status.errCleared_loaded : (st.errCleared).loaded = st.loaded := rfl
@[simp] theorem Status.errCleared_tfv : (st.errCleared).tfv = st.tfv := rfl
@[simp] theorem Status.errCleared_tv : (st.errCleared).tv = st.tv := rfl
@[simp] theorem Status.errCleared_pv : (st.errCleared).pv = st.pv := rfl
@[simp] theorem Status.errCleared_hv : (st.errCleared).hv = st.hv := rfl
@[simp] theorem Status.errCleared_pz : (st.errCleared).pz = st.pz := rfl
@[simp] theorem Status.errCleared_hlo : (st.errCleared).hlo = st.hlo := rfl
@[simp] theorem Status.errCleared_hhi : (st.errCleared).hhi = st.hhi := rfl
@[simp] theorem Status.errCleared_err : (st.errCleared).err = 0#4 := rfl
@[simp] theorem Status.errCleared_fault : (st.errCleared).fault = st.fault := rfl

@[simp] theorem Status.coefLoaded_loaded : (st.coefLoaded).loaded = true := rfl
@[simp] theorem Status.coefLoaded_tfv : (st.coefLoaded).tfv = false := rfl
@[simp] theorem Status.coefLoaded_tv : (st.coefLoaded).tv = st.tv := rfl
@[simp] theorem Status.coefLoaded_pv : (st.coefLoaded).pv = st.pv := rfl
@[simp] theorem Status.coefLoaded_hv : (st.coefLoaded).hv = st.hv := rfl
@[simp] theorem Status.coefLoaded_pz : (st.coefLoaded).pz = st.pz := rfl
@[simp] theorem Status.coefLoaded_hlo : (st.coefLoaded).hlo = st.hlo := rfl
@[simp] theorem Status.coefLoaded_hhi : (st.coefLoaded).hhi = st.hhi := rfl
@[simp] theorem Status.coefLoaded_err : (st.coefLoaded).err = st.err := rfl
@[simp] theorem Status.coefLoaded_fault : (st.coefLoaded).fault = st.fault := rfl

@[simp] theorem Status.coefInvalidated_loaded : (st.coefInvalidated).loaded = false := rfl
@[simp] theorem Status.coefInvalidated_tfv : (st.coefInvalidated).tfv = false := rfl
@[simp] theorem Status.coefInvalidated_tv : (st.coefInvalidated).tv = st.tv := rfl
@[simp] theorem Status.coefInvalidated_pv : (st.coefInvalidated).pv = st.pv := rfl
@[simp] theorem Status.coefInvalidated_hv : (st.coefInvalidated).hv = st.hv := rfl
@[simp] theorem Status.coefInvalidated_pz : (st.coefInvalidated).pz = st.pz := rfl
@[simp] theorem Status.coefInvalidated_hlo : (st.coefInvalidated).hlo = st.hlo := rfl
@[simp] theorem Status.coefInvalidated_hhi : (st.coefInvalidated).hhi = st.hhi := rfl
@[simp] theorem Status.coefInvalidated_err : (st.coefInvalidated).err = st.err := rfl
@[simp] theorem Status.coefInvalidated_fault : (st.coefInvalidated).fault = st.fault := rfl

@[simp] theorem Status.temperatureDone_loaded : (st.temperatureDone).loaded = st.loaded := rfl
@[simp] theorem Status.temperatureDone_tfv : (st.temperatureDone).tfv = true := rfl
@[simp] theorem Status.temperatureDone_tv : (st.temperatureDone).tv = true := rfl
@[simp] theorem Status.temperatureDone_pv : (st.temperatureDone).pv = st.pv := rfl
@[simp] theorem Status.temperatureDone_hv : (st.temperatureDone).hv = st.hv := rfl
@[simp] theorem Status.temperatureDone_pz : (st.temperatureDone).pz = st.pz := rfl
@[simp] theorem Status.temperatureDone_hlo : (st.temperatureDone).hlo = st.hlo := rfl
@[simp] theorem Status.temperatureDone_hhi : (st.temperatureDone).hhi = st.hhi := rfl
@[simp] theorem Status.temperatureDone_err : (st.temperatureDone).err = st.err := rfl
@[simp] theorem Status.temperatureDone_fault : (st.temperatureDone).fault = st.fault := rfl

@[simp] theorem Status.pressureDone_loaded (g : Bool) : (st.pressureDone g).loaded = st.loaded := rfl
@[simp] theorem Status.pressureDone_tfv (g : Bool) : (st.pressureDone g).tfv = st.tfv := rfl
@[simp] theorem Status.pressureDone_tv (g : Bool) : (st.pressureDone g).tv = st.tv := rfl
@[simp] theorem Status.pressureDone_pv (g : Bool) : (st.pressureDone g).pv = true := rfl
@[simp] theorem Status.pressureDone_hv (g : Bool) : (st.pressureDone g).hv = st.hv := rfl
@[simp] theorem Status.pressureDone_pz (g : Bool) : (st.pressureDone g).pz = g := rfl
@[simp] theorem Status.pressureDone_hlo (g : Bool) : (st.pressureDone g).hlo = st.hlo := rfl
@[simp] theorem Status.pressureDone_hhi (g : Bool) : (st.pressureDone g).hhi = st.hhi := rfl
@[simp] theorem Status.pressureDone_err (g : Bool) : (st.pressureDone g).err = st.err := rfl
@[simp] theorem Status.pressureDone_fault (g : Bool) : (st.pressureDone g).fault = st.fault := rfl

@[simp] theorem Status.humidityDone_loaded (lo hi : Bool) : (st.humidityDone lo hi).loaded = st.loaded := rfl
@[simp] theorem Status.humidityDone_tfv (lo hi : Bool) : (st.humidityDone lo hi).tfv = st.tfv := rfl
@[simp] theorem Status.humidityDone_tv (lo hi : Bool) : (st.humidityDone lo hi).tv = st.tv := rfl
@[simp] theorem Status.humidityDone_pv (lo hi : Bool) : (st.humidityDone lo hi).pv = st.pv := rfl
@[simp] theorem Status.humidityDone_hv (lo hi : Bool) : (st.humidityDone lo hi).hv = true := rfl
@[simp] theorem Status.humidityDone_pz (lo hi : Bool) : (st.humidityDone lo hi).pz = st.pz := rfl
@[simp] theorem Status.humidityDone_hlo (lo hi : Bool) : (st.humidityDone lo hi).hlo = lo := rfl
@[simp] theorem Status.humidityDone_hhi (lo hi : Bool) : (st.humidityDone lo hi).hhi = hi := rfl
@[simp] theorem Status.humidityDone_err (lo hi : Bool) : (st.humidityDone lo hi).err = st.err := rfl
@[simp] theorem Status.humidityDone_fault (lo hi : Bool) : (st.humidityDone lo hi).fault = st.fault := rfl

/-- Driving the host's list twice keeps the last one. -/
@[simp] theorem State.withHost_withHost (h h' : List HostAction) : (s.withHost h).withHost h' = s.withHost h' := rfl

@[simp] theorem State.withHost_self : s.withHost s.host = s := rfl

end Sys2Proof.Machine
end

