-- ==== Sys2Proof/Laws/Ops.lean ====
section
/-! SUPPORT. What the shared operations over the state can answer, once each. -/

namespace Sys2Proof.Machine

/-- The fault action (R208) writes ERR and FAULT alone. -/
theorem raiseFault_eq (e : ErrorName) (s : State) :
    raiseFault e s = { s with status := { s.status with err := e.code, fault := true } } := rfl

/-- The reported-error action (R206) writes ERR alone. -/
theorem reportError_eq (e : ErrorName) (s : State) :
    reportError e s = { s with status := { s.status with err := e.code } } := rfl

/-- A failed LOAD (R100) writes LOADED, TFV and ERR alone. -/
theorem failLoad_eq (e : ErrorName) (s : State) :
    failLoad e s = { s with status := { s.status with loaded := false, tfv := false, err := e.code } } := rfl

/-- A successful LOAD (R100) writes the coefficients, LOADED and TFV alone. -/
theorem loadAll_eq (s : State) :
    loadAll s = { s with
      coef := CoefFile.ofValues (loadedValue s.params s.coefPort)
      status := { s.status with loaded := true, tfv := false } } := rfl

/-- After a successful LOAD every register reads as the decoder gives it. -/
@[simp] theorem loadAll_x (s : State) (r : CoefReg) : (loadAll s).x r = loadedValue s.params s.coefPort r :=
  value_ofValues_loadedValue s.params s.coefPort r

/-- Reset leaves the parameters and what belongs to the host (R230, log 4). -/
theorem resetInput_eq (s : State) :
    resetInput s = { s with
      coef := CoefFile.zero, tfine := 0, tOut := 0, pOut := 0, hOut := 0, status := Status.zero } := rfl

/-- R209, item 2: LOADED is checked before everything a sample command looks at. -/
theorem sampleCommand_notLoaded {n r : Bool} {body : State → Option State} {s : State} (h : s.status.loaded = false) :
    sampleCommand n r body s = raiseFault .notLoaded s := by
  simp [sampleCommand, h]

/-- R209, item 3. -/
theorem sampleCommand_tfineInvalid {r : Bool} {body : State → Option State} {s : State}
    (h : s.status.loaded = true) (ht : s.status.tfv = false) :
    sampleCommand true r body s = raiseFault .tfineInvalid s := by
  simp [sampleCommand, h, ht]

/-- R209, item 4. -/
theorem sampleCommand_readFailure {n : Bool} {body : State → Option State} {s : State}
    (h : s.status.loaded = true) (ht : n = true → s.status.tfv = true) :
    sampleCommand n true body s = reportError .genericBusReadFailure s := by
  cases n <;> simp_all [sampleCommand]

/-- R209, item 5, and completion. -/
theorem sampleCommand_body {n : Bool} {body : State → Option State} {s : State}
    (h : s.status.loaded = true) (ht : n = true → s.status.tfv = true) :
    sampleCommand n false body s = (body s).getD (raiseFault .overflow s) := by
  cases n <;> simp_all [sampleCommand] <;> cases body s <;> rfl

/-- Everything a sample command can do: one fault, one reported error, or its computation's writes, which need
LOADED = 1, TFV = 1 where TFINE is read, and RDERR = 0. -/
theorem sampleCommand_cases (n r : Bool) (body : State → Option State) (s : State) :
    (∃ e, (e = .notLoaded ∨ e = .tfineInvalid ∨ (e = .overflow ∧ body s = none)) ∧
      sampleCommand n r body s = raiseFault e s) ∨
    sampleCommand n r body s = reportError .genericBusReadFailure s ∨
    (s.status.loaded = true ∧ (n = true → s.status.tfv = true) ∧ r = false ∧
      body s = some (sampleCommand n r body s)) := by
  by_cases hl : s.status.loaded = true
  · by_cases ht : n = true → s.status.tfv = true
    · cases r with
      | true => exact .inr (.inl (sampleCommand_readFailure hl ht))
      | false =>
        rw [sampleCommand_body hl ht]
        cases hb : body s with
        | none => exact .inl ⟨.overflow, .inr (.inr ⟨rfl, rfl⟩), rfl⟩
        | some t => exact .inr (.inr ⟨hl, ht, rfl, rfl⟩)
    · obtain ⟨rfl, htf⟩ : n = true ∧ s.status.tfv = false := by
        cases n <;> cases h : s.status.tfv <;> simp_all
      exact .inl ⟨.tfineInvalid, .inr (.inl rfl), sampleCommand_tfineInvalid hl htf⟩
  · exact .inl ⟨.notLoaded, .inl rfl, sampleCommand_notLoaded (by simpa using hl)⟩

/-- What COMPT's computation writes, and from what. -/
theorem comptBody_some {s t : State} (h : comptBody s = some t) : ∃ tf tv,
    fineTemp s.params.ovf s.x (rawSample s.samplePort).adcT = some tf ∧ tempOut s.params.ovf tf = some tv ∧
    t = writeTemperature tf tv s := by
  obtain ⟨tf, h1, h⟩ := bind_some h
  obtain ⟨tv, h2, h⟩ := bind_some h
  exact ⟨tf, tv, h1, h2, (Option.some.inj h).symm⟩

/-- What COMPP's computation writes, and from what. -/
theorem comppBody_some {s t : State} (h : comppBody s = some t) : ∃ r,
    pressure s.params.ovf s.x (rawSample s.samplePort).adcP s.tfine.toInt = some r ∧ t = writePressure r.1 r.2 s := by
  obtain ⟨r, h1, h⟩ := bind_some h
  exact ⟨r, h1, (Option.some.inj h).symm⟩

/-- What COMPH's computation writes, and from what. -/
theorem comphBody_some {s t : State} (h : comphBody s = some t) : ∃ r,
    humidity s.params s.x (rawSample s.samplePort).adcH s.tfine.toInt = some r ∧ t = writeHumidity r s := by
  obtain ⟨r, h1, h⟩ := bind_some h
  exact ⟨r, h1, (Option.some.inj h).symm⟩

/-- What CONV's computation writes, and from what. -/
theorem convBody_some {s t : State} (h : convBody s = some t) : ∃ tf tv r hr,
    fineTemp s.params.ovf s.x (rawSample s.samplePort).adcT = some tf ∧ tempOut s.params.ovf tf = some tv ∧
    pressure s.params.ovf s.x (rawSample s.samplePort).adcP tf = some r ∧
    humidity s.params s.x (rawSample s.samplePort).adcH tf = some hr ∧
    t = writeHumidity hr (writePressure r.1 r.2 (writeTemperature tf tv s)) := by
  obtain ⟨tf, h1, h⟩ := bind_some h
  obtain ⟨tv, h2, h⟩ := bind_some h
  obtain ⟨r, h3, h⟩ := bind_some h
  obtain ⟨hr, h4, h⟩ := bind_some h
  exact ⟨tf, tv, r, hr, h1, h2, h3, h4, (Option.some.inj h).symm⟩

/-- With `OVF` = wrap no sample command overflows (R205). -/
theorem body_wrap_total {s : State} (h : s.params.ovf = .wrap) :
    (∃ t, comptBody s = some t) ∧ (∃ t, comppBody s = some t) ∧ (∃ t, comphBody s = some t) ∧
      ∃ t, convBody s = some t := by
  unfold comptBody comppBody comphBody convBody
  rw [h]
  exact
    ⟨total_bind (fineTemp_wrap_total _ _) fun _ => total_bind (tempOut_wrap_total _) fun _ => ⟨_, rfl⟩,
     total_bind (pressure_wrap_total _ _ _) fun _ => ⟨_, rfl⟩,
     total_bind (humidity_wrap_total h _ _ _) fun _ => ⟨_, rfl⟩,
     total_bind (fineTemp_wrap_total _ _) fun _ => total_bind (tempOut_wrap_total _) fun _ =>
       total_bind (pressure_wrap_total _ _ _) fun _ => total_bind (humidity_wrap_total h _ _ _) fun _ => ⟨_, rfl⟩⟩

/-- The temperature writes, as a record. -/
theorem writeTemperature_eq (tf t : Int) (s : State) : writeTemperature tf t s = { s with
    tfine := BitVec.ofInt 32 tf, tOut := BitVec.ofInt 32 t, status := { s.status with tfv := true, tv := true } } := rfl

/-- The pressure writes, as a record. -/
theorem writePressure_eq (p : Int) (g : Bool) (s : State) : writePressure p g s = { s with
    pOut := BitVec.ofInt 32 p, status := { s.status with pz := g, pv := true } } := rfl

/-- The humidity writes, as a record. -/
theorem writeHumidity_eq (h : HumidityResult) (s : State) : writeHumidity h s = { s with
    hOut := BitVec.ofInt 32 h.out, status := { s.status with hlo := h.lo, hhi := h.hi, hv := true } } := rfl

/-- Everything LOAD can do (R100, R110). -/
theorem execLoad_cases (a b c : Bool) (s : State) :
    (a = true ∧ execLoad a b c s = .next (failLoad .coefficientTableReadFailure s)) ∨
    (a = false ∧ (b = true ∨ c = true) ∧ execLoad a b c s = .next (failLoad .humidityCoefficientReadFailure s)) ∨
    (a = false ∧ b = false ∧ c = false ∧ execLoad a b c s = .next (loadAll s)) := by
  cases a <;> cases b <;> cases c <;> simp [execLoad]

/-- One host action leaves the list and takes effect (R61). -/
@[simp] theorem step_cons {s : State} {a : HostAction} {rest : List HostAction} (h : s.host = a :: rest) :
    step s = hostAct a (s.withHost rest) := by
  simp only [step, h]

/-- With nothing left to do the machine keeps its state (log 1). -/
theorem step_nil {s : State} (h : s.host = []) : step s = .next s := by
  simp only [step, h, idle]

/-- The word `withFetchWord` presents is the very next one to run. -/
theorem step_withFetchWord (s : State) (nbits w : Nat) :
    step (s.withFetchWord nbits w) = runWord (BitVec.ofNat 16 (w % 2 ^ nbits)) s := rfl

end Sys2Proof.Machine
end

