-- ==== Sys2Proof/Laws/Exec.lean ====
section
/-! SUPPORT. Commands neither read nor write the host's list of actions (R20: "no CPP state holds it"), and every
command answers a next state. -/

namespace Sys2Proof.Machine

/-- A sample command goes through a change of the state that its checks and its computation do not see. -/
theorem sampleCommand_map {n r : Bool} {body : State → Option State} {s : State} (f : State → State)
    (hs : (f s).status = s.status) (hw : ∀ st, f (s.withStatus st) = (f s).withStatus st)
    (hb : body (f s) = (body s).map f) : sampleCommand n r body (f s) = f (sampleCommand n r body s) := by
  simp only [sampleCommand, raiseFault, reportError, hs, hb]
  split_ifs
  · exact (hw _).symm
  · exact (hw _).symm
  · exact (hw _).symm
  · cases body s with
    | none => exact (hw _).symm
    | some t => rfl

/-- Mapping a sequence's result maps its last operation's. -/
theorem map_bind_option {α β γ : Type} (g : β → γ) (a : Option α) (f : α → Option β) :
    Option.map g (a >>= f) = a >>= fun v => Option.map g (f v) := by
  cases a <;> rfl

@[simp] theorem State.withHost_x (s : State) (h : List HostAction) : (s.withHost h).x = s.x := rfl

@[simp] theorem State.withHost_outValue (s : State) (h : List HostAction) :
    (s.withHost h).outValue = s.outValue := by
  funext r; cases r <;> rfl

theorem comptBody_withHost (s : State) (h : List HostAction) :
    comptBody (s.withHost h) = (comptBody s).map (·.withHost h) := by
  simp only [comptBody, map_bind_option, State.withHost_params, State.withHost_x, State.withHost_samplePort]
  rfl

theorem comppBody_withHost (s : State) (h : List HostAction) :
    comppBody (s.withHost h) = (comppBody s).map (·.withHost h) := by
  simp only [comppBody, map_bind_option, State.withHost_params, State.withHost_x, State.withHost_samplePort,
    State.withHost_outValue]
  rfl

theorem comphBody_withHost (s : State) (h : List HostAction) :
    comphBody (s.withHost h) = (comphBody s).map (·.withHost h) := by
  simp only [comphBody, map_bind_option, State.withHost_params, State.withHost_x, State.withHost_samplePort,
    State.withHost_outValue]
  rfl

theorem convBody_withHost (s : State) (h : List HostAction) :
    convBody (s.withHost h) = (convBody s).map (·.withHost h) := by
  simp only [convBody, map_bind_option, State.withHost_params, State.withHost_x, State.withHost_samplePort]
  rfl

/-- Every command answers a next state, the same one whatever the host still has to do. -/
theorem exec_withHost (i : Instr) (s : State) (h : List HostAction) :
    ∃ t, exec i s = .next t ∧ exec i (s.withHost h) = .next (t.withHost h) := by
  cases i with
  | nop => exact ⟨_, rfl, rfl⟩
  | load a b c => cases a <;> cases b <;> cases c <;> exact ⟨_, rfl, rfl⟩
  | conv r =>
    exact ⟨_, rfl, congrArg _ (sampleCommand_map (·.withHost h) rfl (fun _ => rfl) (convBody_withHost s h))⟩
  | compt r =>
    exact ⟨_, rfl, congrArg _ (sampleCommand_map (·.withHost h) rfl (fun _ => rfl) (comptBody_withHost s h))⟩
  | compp r =>
    exact ⟨_, rfl, congrArg _ (sampleCommand_map (·.withHost h) rfl (fun _ => rfl) (comppBody_withHost s h))⟩
  | comph r =>
    exact ⟨_, rfl, congrArg _ (sampleCommand_map (·.withHost h) rfl (fun _ => rfl) (comphBody_withHost s h))⟩
  | clrerr => exact ⟨_, rfl, rfl⟩
  | unload => exact ⟨_, rfl, rfl⟩

/-- A run's first step. -/
theorem core_run_succ (M : Host.Core) (k : Nat) (s : M.State) : M.run (k + 1) s =
    match M.step s with
    | .next t => M.run k t
    | .fault r => .fault r
    | .refused r => .refused r := rfl

/-- A run goes on from the state its first step answers. -/
theorem core_run_next (k : Nat) {s t : State} (h : step s = .next t) :
    Sys2Proof.core.run (k + 1) s = Sys2Proof.core.run k t := by
  have h' : Sys2Proof.core.step s = .next t := h
  exact (core_run_succ Sys2Proof.core k s).trans (by rw [h'])

/-- A run of one step is the step. -/
theorem core_run_one (s : State) : Sys2Proof.core.run 1 s = step s := by
  refine (core_run_succ Sys2Proof.core 0 s).trans ?_
  generalize hs : Sys2Proof.core.step s = o
  have hs : step s = o := hs
  rw [hs]; cases o <;> rfl

end Sys2Proof.Machine
end

