-- ==== Sys2Proof/Laws/PerInstr.lean ====
section
/-! SUPPORT. Statements about every command as syntax, one lemma per constructor. -/

namespace Sys2Proof.Laws.RowCoversEncoding

/-- Some row of 30_encoding.md R77 with the command's own mnemonic covers the command's word. -/
def Statement (i : Instr) : Prop := ∃ r ∈ opcodeRows, r.mnemonic = i.mnemonic ∧ r.covers (encode i) = true

theorem nop : Statement .nop := by unfold Statement; decide

theorem load (tperr hxerr h1err : Bool) : Statement (.load tperr hxerr h1err) := by
  cases tperr <;> cases hxerr <;> cases h1err <;> (unfold Statement; decide)

theorem conv (rderr : Bool) : Statement (.conv rderr) := by cases rderr <;> (unfold Statement; decide)

theorem compt (rderr : Bool) : Statement (.compt rderr) := by cases rderr <;> (unfold Statement; decide)

theorem compp (rderr : Bool) : Statement (.compp rderr) := by cases rderr <;> (unfold Statement; decide)

theorem comph (rderr : Bool) : Statement (.comph rderr) := by cases rderr <;> (unfold Statement; decide)

theorem clrerr : Statement .clrerr := by unfold Statement; decide

theorem unload : Statement .unload := by unfold Statement; decide

end Sys2Proof.Laws.RowCoversEncoding
end

