-- ==== Sys2Proof/Tests/Slice0.lean ====
section
/-! SUPPORT. The model's own tests. Every expected value is the spec's: a vector of 95_test_vectors.md, a rule's own
example, or a word written out from the patterns of 30_encoding.md R77. Then, for every statement with hypotheses, a
witness that meets them together. -/

namespace Sys2Proof.Tests.Slice0

open Sys2Proof Sys2Proof.Machine Sys2Proof.Claims

/-! ### Helpers -/

/-- COEF of 95_test_vectors.md, byte 31 leftmost. -/
def coefImg : CoefImage := 0x1E03291300016A4B1770C6F83C8CFFF9008C0B270BD0D6438E7DFC1867436B70#256

/-- SMP of 95_test_vectors.md, byte 7 leftmost. -/
def smpImg : SampleImage := 0x2B6A00ED7EC05A65#64

/-- Both images on the ports, COEF decoded, TFINE = 128422, and a given STATUS. -/
def st (status : BitVec 16) : State :=
  { State.reset with
    coefPort := coefImg, samplePort := smpImg, tfine := 128422
    coef := CoefFile.ofValues (loadedValue Config.params coefImg), status := Status.ofWord status }

/-- Whether an outcome is a next state with a property. -/
def next (o : Host.Outcome State Fault Refusal) (f : State → Bool) : Bool :=
  match o with
  | .next t => f t
  | .fault _ => false
  | .refused _ => false

/-- STATUS after, and the rest of the state as before. -/
def onlyStatus (o : Host.Outcome State Fault Refusal) (s : State) (w : BitVec 16) : Bool :=
  next o fun t => t == { s with status := t.status } && t.status.toWord == w

/-- Coefficients in the order of the CoefReg type. -/
def coefs (t1 t2 t3 p1 p2 p3 p4 p5 p6 p7 p8 p9 h1 h2 h3 h4 h5 h6 : Int) : CoefReg → Int
  | .t1 => t1 | .t2 => t2 | .t3 => t3
  | .p1 => p1 | .p2 => p2 | .p3 => p3 | .p4 => p4 | .p5 => p5 | .p6 => p6 | .p7 => p7 | .p8 => p8 | .p9 => p9
  | .h1 => h1 | .h2 => h2 | .h3 => h3 | .h4 => h4 | .h5 => h5 | .h6 => h6

/-- COEF's values with other T1, T2, T3. -/
def coefT (a b c : Int) : CoefReg → Int :=
  coefs a b c 36477 (-10685) 3024 2855 140 (-7) 15500 (-14600) 6000 75 362 0 313 50 30

/-- COEF's values with other P1, P2, P3. -/
def coefP (a b c : Int) : CoefReg → Int :=
  coefs 27504 26435 (-1000) a b c 2855 140 (-7) 15500 (-14600) 6000 75 362 0 313 50 30

/-- COEF's values with other H4, H5. -/
def coefH (a b : Int) : CoefReg → Int :=
  coefs 27504 26435 (-1000) 36477 (-10685) 3024 2855 140 (-7) 15500 (-14600) 6000 75 362 0 a b 30

/-! ### Well-formedness: an ill-formed term for each check, which the check refuses -/

theorem test_word_rsv_refused : CmdWord.legal 0x0100 = false := by decide

theorem test_word_reserved_op_refused : CmdWord.legal 0x0008 = false := by decide

theorem test_word_f3_refused : CmdWord.legal 0x0081 = false := by decide

theorem test_word_unassigned_flag_refused : CmdWord.legal 0x0022 = false := by decide

theorem test_word_load_flags_accepted : CmdWord.legal 0x0071 = true := by decide

theorem test_coef_short_refused : coefBytesOk (List.replicate 31 0) = false := by decide

theorem test_sample_long_refused : sampleBytesOk (List.replicate 9 0) = false := by decide

/-! ### Decoding: words written out bit by bit from the patterns of R77 -/

theorem test_decode_nop : decode 0b0000000000000000#16 = .command .nop := by decide

theorem test_decode_load_tperr : decode 0b0000000000010001#16 = .command (.load true false false) := by decide

theorem test_decode_load_hxerr : decode 0b0000000000100001#16 = .command (.load false true false) := by decide

theorem test_decode_load_h1err : decode 0b0000000001000001#16 = .command (.load false false true) := by decide

theorem test_decode_conv : decode 0b0000000000000010#16 = .command (.conv false) := by decide

theorem test_decode_conv_rderr : decode 0b0000000000010010#16 = .command (.conv true) := by decide

theorem test_decode_compt : decode 0b0000000000000011#16 = .command (.compt false) := by decide

theorem test_decode_compp_rderr : decode 0b0000000000010100#16 = .command (.compp true) := by decide

theorem test_decode_comph_rderr : decode 0b0000000000010101#16 = .command (.comph true) := by decide

theorem test_decode_clrerr : decode 0b0000000000000110#16 = .command .clrerr := by decide

theorem test_decode_unload : decode 0b0000000000000111#16 = .command .unload := by decide

theorem test_decode_f3 : decode 0x00F1#16 = .illegal .unassignedFlag := by decide

theorem test_decode_clrerr_f0 : decode 0x0016#16 = .illegal .unassignedFlag := by decide

theorem test_decode_reserved_op : decode 0x000F#16 = .illegal .reservedOpcode := by decide

theorem test_decode_rsv : decode 0x8001#16 = .illegal .reservedBits := by decide

theorem test_encode_load_all : encode (.load true true true) = 0x0071#16 := by decide

theorem test_encode_comph_rderr : encode (.comph true) = 0x0015#16 := by decide

theorem test_table_word : decodeTableWord 16 0x0012 = some (.conv true) := by decide

/-! ### The commands -/

/-- V-C1. -/
theorem test_nop : onlyStatus (exec .nop (st 0x0001)) (st 0x0001) 0x0001 = true := by decide

/-- V-L1 and V-U6. -/
theorem test_load : next (exec (.load false false false) { st 0x001F with coef := CoefFile.zero }) (fun t =>
    t.status.toWord == 0x001D && [CoefReg.t1, .t3, .p1, .p2, .p8, .h1, .h2, .h4, .h5, .h6].map t.x ==
      [27504, -1000, 36477, -10685, -14600, 75, 362, 313, 50, 30]) = true := by decide

/-- V-F6: code 5 beats code 6. -/
theorem test_load_tperr : onlyStatus (exec (.load true true false) (st 0x0000)) (st 0x0000) 0x0500 = true := by decide

/-- PR1. -/
theorem test_conv : next (exec (.conv false) { st 0x0001 with tfine := 0 }) (fun t =>
    t.status.toWord == 0x001F && t.outValue .tfine == 128422 && t.outValue .tOut == 2508 &&
      t.outValue .pOut == 25767233 && t.outValue .hOut == 40220) = true := by decide +kernel

/-- V-F2: NOT_LOADED beats RDERR. -/
theorem test_conv_not_loaded : onlyStatus (exec (.conv true) (st 0x0000)) (st 0x0000) 0x1B00 = true := by decide

/-- V-T1 in a state with a FAULT and an ERR: neither stops it (PR3). -/
theorem test_compt : next (exec (.compt false) (st 0x1C01)) (fun t =>
    t.status.toWord == 0x1C07 && t.outValue .tfine == 128422 && t.outValue .tOut == 2508) = true := by decide

/-- V-F10: V-T4 with OVF = fault raises OVERFLOW and keeps TFINE and T_OUT. -/
theorem test_compt_overflow :
    (let s := { st 0x0007 with
        params := { Config.params with ovf := .fault }, samplePort := 0x0000FFFFFF000000#64,
        coef := CoefFile.ofValues (coefT 20000 32767 (-1000)) }
     onlyStatus (exec (.compt false) s) s 0x1E07) = true := by decide

/-- PR5: COMPP uses TFINE with the sample's own adc_P. -/
theorem test_compp : next (exec (.compp false) (st 0x0007)) (fun t =>
    t.status.toWord == 0x000F && t.outValue .pOut == 25767233) = true := by decide

/-- V-P2: P1 = 0 takes the guard. -/
theorem test_compp_guard :
    next (exec (.compp false) { st 0x0007 with coef := CoefFile.ofValues (coefP 0 (-10685) 3024), pOut := 7 })
      (fun t => t.status.toWord == 0x002F && t.outValue .pOut == 0) = true := by decide

/-- V-H3: the upper clamp. -/
theorem test_comph_hi : next (exec (.comph false) { st 0x000F with samplePort := 0xFFFF000000000000#64 }) (fun t =>
    t.status.toWord == 0x009F && t.outValue .hOut == 102400) = true := by decide

/-- V-F4: TFINE_INVALID beats RDERR. -/
theorem test_comph_tfine_invalid : onlyStatus (exec (.comph true) (st 0x0001)) (st 0x0001) 0x1C01 = true := by decide

/-- V-C3: FAULT stays. -/
theorem test_clrerr : onlyStatus (exec .clrerr (st 0x1D1F)) (st 0x1D1F) 0x101F = true := by decide

/-- V-C4. -/
theorem test_unload : onlyStatus (exec .unload (st 0x001F)) (st 0x001F) 0x001C = true := by decide

/-! ### The operations -/

/-- V-U3 with zero extension. -/
theorem test_unpack_zext : unpack12 false 0x80 (lowNibble 0x0F) = 2063 := by decide

/-- V-U3 with sign extension. -/
theorem test_unpack_sext : unpack12 true 0x80 (lowNibble 0x0F) = -2033 := by decide

/-- V-U4: the high nibble of the shared byte goes to H5 only. -/
theorem test_unpack_shared : unpack12 false 0 (lowNibble 0xF0) = 0 ∧ unpack12 false 0 (highNibble 0xF0) = 15 := by
  decide

/-- V-L1 with P1_SIGNED = true. -/
theorem test_p1_signed : loadedValue { Config.params with p1Signed := true } coefImg .p1 = -29059 := by decide

/-- V-R5: the discarded low nibbles. -/
theorem test_raw_sample :
    rawSample 0x0201EFCDAB5F3412#64 = { adcP := 74565, adcT := 703710, adcH := 258 } := by decide

/-- R141. -/
theorem test_shifts : asr (-1) 4 = -1 ∧ asr (-5) 1 = -3 ∧ w32 .wrap (shl 4095 20) = some (-1048576) := by decide

/-- R142. -/
theorem test_tdiv : tdiv 7 2 = 3 ∧ tdiv (-7) 2 = -3 ∧ tdiv 7 (-2) = -3 ∧ tdiv (-7) (-2) = 3 := by decide

/-- V-T2 and V-T6. -/
theorem test_fine_temp : fineTemp .wrap (coefT 27504 26435 (-1000)) 0 = some (-721301) ∧
    fineTemp .wrap (coefT 0 32767 0) 1048575 = some (-80) := by decide

/-- V-TO3 and V-TO7. -/
theorem test_temp_out : tempOut .wrap (-51) = some (-1) ∧ tempOut .wrap 2147483647 = some (-8388608) := by decide

/-- V-P4: the quotient truncates and a negative p wraps. -/
theorem test_pressure_u32 :
    pressure .fault (coefP 36477 (-10685) 3024) 1048575 128422 = some (4293269792, false) := by decide

/-- V-P7b and V-P7c. -/
theorem test_pressure_guard : pressure .fault (coefP 2 (-4790) (-32768)) 415148 (-1000000) = some (0, true) ∧
    pressure .wrap (coefP 3 (-4790) (-32768)) 415148 (-1000000) = some (2924377090, false) := by decide

/-- V-H6. -/
theorem test_humidity_lo : humidity Config.params (coefH 313 4095) 27179 128422 =
    some { out := 0, lo := true, hi := false } := by decide

/-- V-H12: HUM_OUT_SHIFT = 0. -/
theorem test_humidity_shift_zero :
    humidity { Config.params with humOutShift := .zero } (coefH 313 50) 27179 128422 =
      some { out := 164744325, lo := false, hi := false } := by decide

/-! ### Reads, reset, steps, views, text -/

/-- V-F1, as the first command after reset. -/
theorem test_first_step : onlyStatus (step (State.reset.withFetchWord 16 0x0002)) State.reset 0x1B00 = true := by decide

/-- V-F5: a reserved opcode. -/
theorem test_illegal_word : onlyStatus (step ((st 0x001F).withFetchWord 16 0x0008)) (st 0x001F) 0x1D1F = true := by
  decide

/-- V-RS1. -/
theorem test_reset : next (step { st 0x1D1F with host := [.reset] })
    (fun t => t.status.toWord == 0 && observe t == [(.status, 0)]) = true := by decide

/-- R50 to R52: each image action writes its own port and no other. -/
theorem test_image_ports :
    next (step { State.reset with host := [.coefImage coefImg] }) (· == { State.reset with coefPort := coefImg }) = true ∧
    next (step { State.reset with host := [.sampleImage smpImg] })
      (· == { State.reset with samplePort := smpImg }) = true := by decide

/-- R24, R28. -/
theorem test_reads : readPort (.coef .t3) (st 0x0001) = .next (-1000) ∧
    readPort (.out .tfine) (st 0x0001) = .fault (.noValueRead (.out .tfine)) := ⟨rfl, rfl⟩

/-- 95_test_vectors.md 2.8: T_OUT 2508 in binary64. -/
theorem test_view_64 : (viewOf .binary64 .temperatureC 2508).mant * 10 ^ 46 =
    250799999999999982946974341757595539093017578125 * 2 ^ 48 ∧
    (viewOf .binary64 .temperatureC 2508).exp = -48 := by decide

/-- 95_test_vectors.md 2.8: P_OUT 25767233 in binary32, a tie, to even. -/
theorem test_view_32_tie :
    viewOf .binary32 .pressurePa 25767233 = { neg := false, mant := 12883616, exp := -7 } := by decide

/-- R78, R79. -/
theorem test_assemble : assemble "LOAD tperr,h1err ; two flags\nREAD rderr\nSTAGE\nRELOAD" =
    some [.command 0x0051, .command 0x0012, .command 0x0003, .command 0x0004, .command 0x0005, .command 0x0007,
      .command 0x0001] := by decide

/-- R78: a directive. -/
theorem test_assemble_sample : assemble ".sample 65 5A C0 7E ED 00 6A 2B" = some [.sampleImage smpImg] := by decide

/-! ### Witnesses: for every statement with hypotheses, a state and operands that meet them -/

theorem witness_StepRunsDecodedCommand : (State.reset.withFetchWord 16 0x0012).host = [.command 0x0012] ∧
    decode 0x0012 = .command (.conv true) := by decide

/-- One word for each of the five clauses. -/
theorem witness_MalformedWordRaisesIllegalOnly : (0x0100#16).toNat / 256 ≠ 0 ∧ 8 ≤ (0x0008#16).toNat % 16 ∧
    (0x0081#16).getLsbD 7 = true ∧ ((0x0016#16).toNat % 16 = 6 ∧ (0x0016#16).getLsbD 4 = true) ∧
    ((0x0022#16).toNat % 16 ≠ 1 ∧ (0x0022#16).getLsbD 5 = true) := by decide

theorem witness_RowMatchesExactlyItsCommands : (0x0071#16 &&& 0xFF8F#16 = 0x0001#16) ∧
    decode 0x0041 = .command (.load false false true) ∧ decode 0x0015 = .command (.comph true) := by decide

theorem witness_FailedLoadReportsFailingStep :
    next (exec (.load false false true) (st 0x001F)) (fun t => t.status.toWord == 0x061C) = true ∧
    next (exec (.load false true false) (st 0x001F)) (fun t => t.status.toWord == 0x061C) = true := by decide

theorem witness_PrimaryBlockRoundTrips : ∃ t, exec (.load false false false) (st 0) = .next t ∧ t.x .p9 = 6000 :=
  ⟨_, rfl, by decide⟩

theorem witness_UnpackerKeepsEveryBit :
    (st 0).params.h45Sext = false ∧ (∃ t, exec (.load false false false) (st 0) = .next t) ∧
    (let s := { st 0 with params := { Config.params with h45Sext := true }, coefPort := 0x80#232 ++ 0#24 }
     s.params.h45Sext = true ∧ ∃ t, exec (.load false false false) s = .next t) := ⟨rfl, ⟨_, rfl⟩, rfl, ⟨_, rfl⟩⟩

/-- Both ends of the image: bit 0 is T1's, bit 255 is H6's sign. -/
theorem witness_EveryImageBitReachesOneRegister :
    loadedValue Config.params (coefImg ^^^ BitVec.twoPow 256 0) .t1 = 27505 ∧
    loadedValue Config.params (coefImg ^^^ BitVec.twoPow 256 255) .h6 = -98 := by decide

/-- Both outcomes. -/
theorem witness_OnlyLoadWritesCoefficients : (∃ t, exec .clrerr (st 0) = .next t) ∧
    ∃ t, exec (.load false false false) { st 0 with coef := CoefFile.zero } = .next t ∧ t.coef ≠ CoefFile.zero :=
  ⟨⟨_, rfl⟩, _, rfl, by decide⟩

/-- Clause 1 at hb[3] = 0x7F and 0x80, clause 2 with H4 = 4095 and -1, clause 3 at H4 = 2048. -/
theorem witness_H4ExtensionDoesNotReachHumidity :
    [0x7F#8, 0x80#8].map (fun b => loadedValue { Config.params with h45Sext := true } (0#24 ++ b ++ 0#224) .h4) =
      [2032, -2048] ∧
    (let s := { st 7 with coef := CoefFile.ofValues (coefH 4095 50) }
     s.params.ovf = .wrap ∧ (∀ r, r ≠ .h4 → (CoefFile.ofValues (coefH (-1) 50)).value s.params r = s.x r) ∧
       (CoefFile.ofValues (coefH (-1) 50)).value s.params .h4 = s.x .h4 - 4096) ∧
    (let s := { st 7 with
        params := { Config.params with ovf := .fault }, coef := CoefFile.ofValues (coefH 2048 50) }
     s.params.ovf = .fault ∧ s.status.loaded = true ∧ s.status.tfv = true ∧ 2048 ≤ s.x .h4) := by
  refine ⟨by decide, ⟨rfl, fun r => ?_, by decide⟩, by decide⟩
  cases r <;> decide

/-- Each image agrees with the sample port on the bytes its clause names and on no other. -/
theorem witness_StagedCommandsIgnoreOtherSampleBytes :
    (∀ k : Fin 8, imageByte (smpImg ^^^ 0xFFFF000000FFFFFF#64) k = imageByte smpImg k ↔ 3 ≤ k.val ∧ k.val ≤ 5) ∧
    (∀ k : Fin 8, imageByte (smpImg ^^^ 0xFFFFFFFFFF000000#64) k = imageByte smpImg k ↔ k.val ≤ 2) ∧
    (∀ k : Fin 8, imageByte (smpImg ^^^ 0x0000FFFFFFFFFFFF#64) k = imageByte smpImg k ↔ 6 ≤ k.val) := by decide

theorem witness_ComptComputesTemperature : (st 0x0001).status.loaded = true ∧ (st 0x0001).params.ovf = .wrap := by
  decide

theorem witness_ComppComputesPressure : (st 0x0003).status.loaded = true ∧ (st 0x0003).status.tfv = true ∧
    (st 0x0003).params.ovf = .wrap := by decide

/-- Beside `witness_ComppComputesPressure`: V-P7b stands just below the bound 2^33, V-P7c just above it, V-P1 far above,
and with P1 = 0 the product is 0. -/
theorem witness_PressureGuardTakenExactly :
    [(coefs 0 0 0 2 (-4790) (-32768) 2855 140 (-7) 15500 (-14600) 6000 75 362 0 313 50 30, -1000000),
     (coefs 0 0 0 3 (-4790) (-32768) 2855 140 (-7) 15500 (-14600) 6000 75 362 0 313 50 30, -1000000),
     (coefP 36477 (-10685) 3024, 128422), (coefP 0 (-10685) 3024, 128422)].map
      (fun c => decide ((pressureTermsFormula s64 c.1 c.2).2 = 0)) = [true, false, false, true] := by decide

theorem witness_ComphComputesHumidity : (st 0x0003).status.loaded = true ∧ (st 0x0003).status.tfv = true ∧
    (st 0x0003).params.ovf = .wrap := by decide

theorem witness_ConvComputesAllThree : (st 0x0001).status.loaded = true ∧ (st 0x0001).params.ovf = .wrap ∧
    fineTempFormula s32 (st 0x0001).x (adcT (st 0x0001)) = 128422 := by decide

theorem witness_ConvEqualsStagedSequence : (st 0x0001).status.loaded = true ∧ (st 0x0001).status.fault = false ∧
    ∃ t, exec (.conv false) { st 0x0001 with host := [] } = .next t ∧ t.status.fault = false :=
  ⟨by decide, by decide, _, rfl, by decide +kernel⟩

theorem witness_LoadAndConvAreAllOrNothing : (∃ t, exec (.load false true false) (st 1) = .next t) ∧
    (∃ t, exec (.conv false) (st 1) = .next t ∧ t.tOut ≠ (st 1).tOut) ∧ ∃ t, exec (.conv true) (st 1) = .next t :=
  ⟨⟨_, rfl⟩, ⟨_, rfl, by decide +kernel⟩, _, rfl⟩

/-- `st` with OVF = fault. -/
def stFault (status : BitVec 16) (c : CoefFile) (img : SampleImage) (tf : Int) : State :=
  { st status with params := { Config.params with ovf := .fault }, coef := c, samplePort := img, tfine := .ofInt 32 tf }

/-- COEF's register file. -/
def coefFile : CoefFile := CoefFile.ofValues (loadedValue Config.params coefImg)

/-- V-T1 fits, V-T4 does not. -/
theorem witness_ComptOverflowsExactlyOutsideWidth :
    (let s := stFault 1 coefFile smpImg 0
     s.status.loaded = true ∧ s.params.ovf = .fault ∧
       ∀ e ∈ fineTempSteps s.x (adcT s) ++ tempOutSteps (fineTempFormula id s.x (adcT s)), fits 32 e) ∧
    (let s := stFault 1 (CoefFile.ofValues (coefT 20000 32767 (-1000))) 0x0000FFFFFF000000#64 0
     s.status.loaded = true ∧ s.params.ovf = .fault ∧
       ¬ ∀ e ∈ fineTempSteps s.x (adcT s) ++ tempOutSteps (fineTempFormula id s.x (adcT s)), fits 32 e) := by
  decide +kernel

/-- V-P1 fits; with v1 · v1 · P6 for TFINE = -2^31 and P6 = 32767 the 64 bits do not hold. -/
theorem witness_ComppOverflowsExactlyOutsideWidth :
    (let s := stFault 3 coefFile smpImg 128422
     s.status.loaded = true ∧ s.status.tfv = true ∧ s.params.ovf = .fault ∧
       pressureFits s.x (adcP s) s.tfine.toInt) ∧
    (let s := stFault 3 { coefFile with p6 := 0x7FFF } smpImg (-2147483648)
     s.status.loaded = true ∧ s.status.tfv = true ∧ s.params.ovf = .fault ∧
       ¬ pressureFits s.x (adcP s) s.tfine.toInt) := by
  decide +kernel

/-- V-H1 fits; with H4 = 4095 the subtrahend does not. -/
theorem witness_ComphOverflowsExactlyOutsideWidth :
    (let s := stFault 3 coefFile smpImg 128422
     s.status.loaded = true ∧ s.status.tfv = true ∧ s.params.ovf = .fault ∧
       ∀ e ∈ humiditySteps s.x (adcH s) s.tfine.toInt, fits 32 e) ∧
    (let s := stFault 3 (CoefFile.ofValues (coefH 4095 50)) smpImg 128422
     s.status.loaded = true ∧ s.status.tfv = true ∧ s.params.ovf = .fault ∧
       ¬ ∀ e ∈ humiditySteps s.x (adcH s) s.tfine.toInt, fits 32 e) := by
  decide +kernel

/-- PR1's images fit; V-T4's temperature, the largest P1, P2 and P3, and H4 = 4095 do not, each in its pipeline
alone; the last state has FAULT = 1 before. -/
theorem witness_ConvOverflowsExactlyOutsideWidth :
    (let s := stFault 0x1B01 coefFile smpImg 0
     s.status.loaded = true ∧ s.params.ovf = .fault ∧ s.status.fault = true ∧
       convFits s.x (adcP s) (adcT s) (adcH s) (fineTempFormula id s.x (adcT s))) ∧
    (let s := stFault 1 (CoefFile.ofValues (coefT 20000 32767 (-1000))) 0x0000FFFFFF000000#64 0
     s.status.loaded = true ∧ s.params.ovf = .fault ∧
       ¬ ∀ e ∈ fineTempSteps s.x (adcT s) ++ tempOutSteps (fineTempFormula id s.x (adcT s)), fits 32 e) ∧
    (let s := stFault 1 { coefFile with t1 := 20000, t2 := 23000, t3 := 0, p1 := 0xFFFF, p2 := 0x7FFF, p3 := 0x7FFF } 0x0000FFFFFF000000#64 0
     s.status.loaded = true ∧ s.params.ovf = .fault ∧
       (∀ e ∈ fineTempSteps s.x (adcT s) ++ tempOutSteps (fineTempFormula id s.x (adcT s)), fits 32 e) ∧
       ¬ pressureFits s.x (adcP s) (fineTempFormula id s.x (adcT s))) ∧
    (let s := stFault 0x1E01 { coefFile with h4 := 0x0FFF } smpImg 0
     s.status.loaded = true ∧ s.params.ovf = .fault ∧
       (∀ e ∈ fineTempSteps s.x (adcT s) ++ tempOutSteps (fineTempFormula id s.x (adcT s)), fits 32 e) ∧
       pressureFits s.x (adcP s) (fineTempFormula id s.x (adcT s)) ∧
       ¬ ∀ e ∈ humiditySteps s.x (adcH s) (fineTempFormula id s.x (adcT s)), fits 32 e) := by
  decide +kernel

theorem witness_FaultMachineRefinesWrapMachine : (stFault 1 coefFile smpImg 0).params.ovf = .fault ∧
    (stFault 1 coefFile smpImg 0).status.fault = false ∧
    ∃ t, exec (.conv false) (stFault 1 coefFile smpImg 0) = .next t ∧ t.status.fault = false :=
  ⟨rfl, by decide, _, rfl, by decide +kernel⟩

theorem witness_DivisionTruncatesTowardZero : (-2 : Int) ≠ 0 ∧ tdiv (-7) (-2) ≠ 0 ∧ tdiv 1 (-2) = 0 := by decide

theorem witness_SampleCommandsFaultUntilLoaded : State.reset.status.loaded = false := rfl

theorem witness_PressureAndHumidityNeedTfine : (st 0x0001).status.loaded = true ∧ (st 0x0001).status.tfv = false := by
  decide

theorem witness_FailedSampleReadIsReported : (st 0x0003).status.loaded = true ∧ (st 0x0003).status.tfv = true := by
  decide

theorem witness_FaultsArePrecise :
    ∃ t, step (State.reset.withFetchWord 16 2) = .next t ∧ State.reset.status.fault = false ∧ t.status.fault = true :=
  ⟨_, rfl, rfl, rfl⟩

theorem witness_OnlyResetClearsFault : (st 0x1D1F).status.fault = true ∧
    ∃ t, step { st 0x1D1F with host := [.reset] } = .next t ∧ t.status.fault = false := ⟨by decide, _, rfl, rfl⟩

/-- For NOP, CLRERR and UNLOAD: the legal word and one other word with the same OP. -/
theorem witness_NopChangesNothing : (0x0000#16).toNat % 16 = 0 ∧ (0x0010#16).toNat % 16 = 0 ∧ (0x0010#16) ≠ 0 := by
  decide

theorem witness_ClrerrClearsErrOnly : (0x0006#16).toNat % 16 = 6 ∧ (0x8006#16).toNat % 16 = 6 ∧ (0x8006#16) ≠ 6 := by
  decide

theorem witness_UnloadInvalidatesCoefficients : (0x0007#16).toNat % 16 = 7 ∧ (0x0087#16).toNat % 16 = 7 ∧
    (0x0087#16) ≠ 7 ∧ ∃ t, exec .unload (st 0x001F) = .next t := ⟨by decide, by decide, by decide, _, rfl⟩

theorem witness_TfvFollowsItsRule :
    (∃ t, exec (.compt false) (st 0x0001) = .next t ∧ (st 0x0001).status.tfv = false ∧ t.status.tfv = true) ∧
    (∃ t, exec (.load false false true) (st 0x0003) = .next t) ∧ (∃ t, exec (.compp false) (st 0x0003) = .next t) :=
  ⟨⟨_, rfl, by decide, by decide⟩, ⟨_, rfl⟩, _, rfl⟩

theorem witness_StaleTfineNeverMeetsNewCoefficients : ∀ w ∈ [(0x0001 : CmdWord), 0x0004, 0x0016, 0x0000],
    ∀ i, decode w = .command i → computesTfine i = false := by
  intro w hw i hi
  simp only [List.mem_cons, List.not_mem_nil, or_false] at hw
  rcases hw with rfl | rfl | rfl | rfl <;> cases hi <;> rfl

theorem witness_OutputValidBitsStay : ∃ t, exec (.compt false) (st 0x001D) = .next t ∧
    (st 0x001D).status.tv = true ∧ (st 0x001D).status.pv = true ∧ (st 0x001D).status.hv = true ∧
    t.tOut ≠ (st 0x001D).tOut := ⟨_, rfl, by decide, by decide, by decide, by decide⟩

theorem witness_CommandsReadOnlyLoadedAndTfv : (st 0x1FFF).status.loaded = (st 0x0003).status.loaded ∧
    (st 0x1FFF).status.tfv = (st 0x0003).status.tfv ∧ (st 0x1FFF).status ≠ (st 0x0003).status := by decide

theorem witness_ConversionDependsOnInputsOnly :
    (let s := st 0x0001
     let s' := { st 0x06DF with tfine := 7, tOut := 9 }
     s.params = s'.params ∧ s.coef = s'.coef ∧ s.samplePort = s'.samplePort ∧ s.status.loaded = true ∧
       s'.status.loaded = true ∧ s.status.fault = false ∧ s'.status.fault = false ∧
       (∃ t, exec (.conv false) s = .next t) ∧ (∃ t, exec (.conv false) s' = .next t)) :=
  ⟨rfl, rfl, rfl, by decide, by decide, by decide, by decide, ⟨_, rfl⟩, _, rfl⟩

theorem witness_ResetLeavesNoValue : { st 0x1FFF with host := [.reset, .read .status] }.host =
    .reset :: [.read .status] := rfl

theorem witness_ReadPortsReturnValidRegistersOnly :
    (let s := { st 0x0001 with host := [.read (.coef .h4)] }
     s.host = [.read (.coef .h4)] ∧ readPort (.coef .h4) s = .next 313) ∧
    (let s := { st 0x0001 with host := [.read (.out .pOut)] }
     s.host = [.read (.out .pOut)] ∧ readPort (.out .pOut) s = .fault (.noValueRead (.out .pOut))) :=
  ⟨⟨rfl, rfl⟩, rfl, rfl⟩

/-- A state after V-P2, with the guard's trace, ready to run CONV. -/
def stGuard : State :=
  { st 0x002F with coef := CoefFile.ofValues (coefP 0 (-10685) 3024), tOut := 2508, host := [.command 0x0002] }

theorem stGuard_inv : stGuard.Inv := by
  constructor <;> first | decide | (unfold errAllowed; decide) | (unfold h45InRange; decide)

theorem witness_StepKeepsInvariant : stGuard.Inv ∧ ∃ t, step stGuard = .next t := ⟨stGuard_inv, _, rfl⟩

theorem witness_GuardViewIsPositiveZero : stGuard.Inv ∧ stGuard.status.pz = true := ⟨stGuard_inv, by decide⟩

theorem witness_StepKeepsParamsAndTakesOneAction : ∃ t, step stGuard = .next t ∧ t.host = [] := ⟨_, rfl, rfl⟩

/-- Visibly alike, but not equal; the first step goes on, a read of no value stops. -/
theorem witness_HiddenContentsAreNeverObservable :
    SameVisible State.reset { State.reset with tfine := 7, coef := coefFile } ∧ (∃ t, step State.reset = .next t) ∧
    step { State.reset with host := [.read (.out .tfine)] } = .fault (.noValueRead (.out .tfine)) :=
  ⟨by unfold SameVisible; decide, ⟨_, rfl⟩, rfl⟩

/-- One image for each port. -/
theorem witness_ImageActionsWriteTheirPort :
    { st 0 with host := [.coefImage 1] }.host = .coefImage 1 :: [] ∧
    { st 0 with host := [.sampleImage 1, .reset] }.host = .sampleImage 1 :: [.reset] := ⟨rfl, rfl⟩

theorem witness_EveryRunWithoutReadsCompletes :
    [HostAction.coefImage 0, .sampleImage 1, .command 0xFFFF, .command 1, .reset].all notRead = true := by decide

/-- The largest significand each format has. -/
theorem witness_ViewsRoundToNearestEven :
    (⟨true, 2 ^ 53 - 1, -40⟩ : FloatVal).mant < 2 ^ precision .binary64 ∧
    (⟨false, 2 ^ 24 - 1, 0⟩ : FloatVal).mant < 2 ^ precision .binary32 := by decide

end Sys2Proof.Tests.Slice0
end

section
/-! What each operation does to the coefficient file (10_state.md R23), and O12 from it. -/

namespace Sys2Proof.Machine

@[simp] theorem raiseFault_coef (e : ErrorName) (s : State) : (raiseFault e s).coef = s.coef := rfl

@[simp] theorem reportError_coef (e : ErrorName) (s : State) : (reportError e s).coef = s.coef := rfl

@[simp] theorem failLoad_coef (e : ErrorName) (s : State) : (failLoad e s).coef = s.coef := rfl

/-- A sample command leaves the coefficient file as it is when its computation does. -/
theorem sampleCommand_coef {n r : Bool} {body : State → Option State} {s : State}
    (hbody : ∀ t, body s = some t → t.coef = s.coef) : (sampleCommand n r body s).coef = s.coef := by
  obtain ⟨e, -, hfault⟩ | herror | ⟨-, -, -, hdone⟩ := sampleCommand_cases n r body s
  · rw [hfault, raiseFault_coef]
  · rw [herror, reportError_coef]
  · exact hbody _ hdone

theorem comptBody_coef {s t : State} (h : comptBody s = some t) : t.coef = s.coef := by
  obtain ⟨tf, tv, -, -, rfl⟩ := comptBody_some h
  rfl

theorem comppBody_coef {s t : State} (h : comppBody s = some t) : t.coef = s.coef := by
  obtain ⟨r, -, rfl⟩ := comppBody_some h
  rfl

theorem comphBody_coef {s t : State} (h : comphBody s = some t) : t.coef = s.coef := by
  obtain ⟨r, -, rfl⟩ := comphBody_some h
  rfl

theorem convBody_coef {s t : State} (h : convBody s = some t) : t.coef = s.coef := by
  obtain ⟨tf, tv, r, hr, -, -, -, -, rfl⟩ := convBody_some h
  rfl

/-- LOAD keeps the coefficient file when a failure flag is set, and otherwise ends as `loadAll` (R100). -/
theorem execLoad_coef_or_loadAll {tperr hxerr h1err : Bool} {s t : State}
    (h : execLoad tperr hxerr h1err s = .next t) :
    t.coef = s.coef ∨ (tperr = false ∧ hxerr = false ∧ h1err = false ∧ t = loadAll s) := by
  obtain ⟨-, hfail⟩ | ⟨-, -, hfail⟩ | ⟨htp, hhx, hh1, hload⟩ := execLoad_cases tperr hxerr h1err s
  · cases hfail.symm.trans h
    exact .inl (failLoad_coef _ s)
  · cases hfail.symm.trans h
    exact .inl (failLoad_coef _ s)
  · cases hload.symm.trans h
    exact .inr ⟨htp, hhx, hh1, rfl⟩

/-- Settles O12: a sample command writes no coefficient whatever way it ends, the control commands write STATUS at most,
and a LOAD that writes any register is `loadAll`. -/
theorem onlyLoadWritesCoefficients : Obligations.OnlyLoadWritesCoefficients := by
  intro i s t h
  cases i with
  | load tperr hxerr h1err =>
    obtain hkept | ⟨rfl, rfl, rfl, rfl⟩ := execLoad_coef_or_loadAll h
    · exact .inl hkept
    · exact .inr ⟨rfl, loadAll_x s⟩
  | conv rderr => cases h; exact .inl (sampleCommand_coef fun _ => convBody_coef)
  | compt rderr => cases h; exact .inl (sampleCommand_coef fun _ => comptBody_coef)
  | compp rderr => cases h; exact .inl (sampleCommand_coef fun _ => comppBody_coef)
  | comph rderr => cases h; exact .inl (sampleCommand_coef fun _ => comphBody_coef)
  | nop => cases h; exact .inl rfl
  | clrerr => cases h; exact .inl rfl
  | unload => cases h; exact .inl rfl

end Sys2Proof.Machine
end

section
/-! Reset (10_state.md R42, 70_reset_and_hazards.md R230) and what the read ports answer while no valid bit is set
(R24, R28), and O44 from them. -/

namespace Sys2Proof.Machine

@[simp] theorem resetInput_status (s : State) : (resetInput s).status = Status.zero := rfl

@[simp] theorem resetInput_host (s : State) : (resetInput s).host = s.host := rfl

/-- The reset input as the host's next action. -/
theorem step_reset {s : State} {rest : List HostAction} (h : s.host = .reset :: rest) :
    step s = .next (resetInput (s.withHost rest)) := by
  rw [step_cons h, hostAct]

theorem Status.toWord_zero : Status.zero.toWord = 0 := by decide

/-- A port that holds no value answers the reading agent's fault. -/
theorem readPort_noValue {p : ReadPort} {s : State} (h : s.hasValue p = false) :
    readPort p s = .fault (.noValueRead p) := by
  simp [readPort, h]

theorem readPort_coef_noValue {s : State} (h : s.status.loaded = false) (r : CoefReg) :
    readPort (.coef r) s = .fault (.noValueRead (.coef r)) :=
  readPort_noValue h

theorem readPort_out_noValue {r : OutReg} {s : State} (h : s.status.outValid r = false) :
    readPort (.out r) s = .fault (.noValueRead (.out r)) :=
  readPort_noValue h

theorem Status.outValid_zero (r : OutReg) : Status.zero.outValid r = false := by
  cases r <;> rfl

/-- With STATUS = 0x0000 STATUS reads 0 and no register port returns a value. -/
theorem noValue_of_status_zero {s : State} (h : s.status = Status.zero) :
    s.status.toWord = 0 ∧
    (∀ r, readPort (.coef r) s = .fault (.noValueRead (.coef r))) ∧
    (∀ r, readPort (.out r) s = .fault (.noValueRead (.out r))) := by
  refine ⟨?_, readPort_coef_noValue ?_, fun r => readPort_out_noValue ?_⟩
  · rw [h, Status.toWord_zero]
  · rw [h, Status.zero]
  · rw [h, Status.outValid_zero]

/-- Settles O44: the reset input and `State.reset` both have STATUS = 0x0000, which decides every clause on reads. -/
theorem resetLeavesNoValue : Obligations.ResetLeavesNoValue :=
  ⟨fun _ _ h => ⟨_, step_reset h, resetInput_host _, noValue_of_status_zero (resetInput_status _)⟩,
    noValue_of_status_zero rfl⟩

end Sys2Proof.Machine
end

section
/-! The raw sample by its three numbers (41_loader_unpacker.md R115), what a sample command that does not complete can
change, and O23 (20_memory.md R59) from them. -/

namespace Sys2Proof.Machine

open Sys2Proof.Claims

/-- A right shift of a natural number is its quotient (R9). -/
theorem asr_natCast (a k : Nat) : asr a k = ((a / 2 ^ k : Nat) : Int) := by
  simp [asr]

/-- The extractor gives the three big-endian numbers of R115. -/
theorem rawSample_eq (s : State) :
    rawSample s.samplePort = { adcP := adcP s, adcT := adcT s, adcH := adcH s } := by
  simp only [rawSample, asr_natCast, memReadBE_three, memReadBE_two, adcP, adcT, adcH, Nat.reduceAdd, Nat.reducePow]

/-- A sample command completes its computation, or changes ERR and FAULT at most (R206, R208). -/
theorem sampleCommand_errFault_or_body (n r : Bool) (body : State → Option State) (s : State) :
    sampleCommand n r body s = { s with status := { s.status with
      err := (sampleCommand n r body s).status.err, fault := (sampleCommand n r body s).status.fault } } ∨
    body s = some (sampleCommand n r body s) := by
  obtain ⟨e, -, hfault⟩ | herror | ⟨-, -, -, hdone⟩ := sampleCommand_cases n r body s
  · rw [hfault]
    exact .inl (raiseFault_eq e s)
  · rw [herror]
    exact .inl (reportError_eq _ s)
  · exact .inr hdone

/-- Settles O23: a LOAD that writes any register is `loadAll`, and a CONV that changes more than ERR and FAULT has run
`convBody`, which has a result only when all three pipelines have one. -/
theorem loadAndConvAreAllOrNothing : Obligations.LoadAndConvAreAllOrNothing := by
  constructor
  · intro s t tperr hxerr h1err h
    obtain hkept | ⟨-, -, -, rfl⟩ := execLoad_coef_or_loadAll h
    · exact .inl hkept
    · exact .inr (loadAll_x s)
  · intro s t rderr h
    cases h
    obtain hstopped | hdone := sampleCommand_errFault_or_body false rderr convBody s
    · exact .inl hstopped
    · obtain ⟨tf, tv, r, hr, hfine, htemp, hpress, hhum, hwritten⟩ := convBody_some hdone
      rw [rawSample_eq] at hfine hpress hhum
      exact .inr ⟨tf, tv, r, hr, hfine, htemp, hpress, hhum, hwritten⟩

end Sys2Proof.Machine
end

section
/-! The decoder's commands are the encoder's words (30_encoding.md R70 to R76), what an ILLEGAL word does (R204), and O2
from them. -/

namespace Sys2Proof

/-- A command without flags has F0 to F3 = 0 (R72, first row). -/
theorem decodeBare_command {f : BitVec 4} {c i : Instr} (h : decodeBare f c = .command i) : f = 0#4 ∧ i = c := by
  unfold decodeBare at h
  split at h
  · next hf => cases h; exact ⟨hf, rfl⟩
  · cases h

/-- A sample command's flags are RDERR alone (R72, last row). -/
theorem decodeSample_command {f : BitVec 4} {c : Bool → Instr} {i : Instr} (h : decodeSample f c = .command i) :
    ∃ rderr, f = 0#3 ++ BitVec.ofBool rderr ∧ i = c rderr := by
  unfold decodeSample at h
  split at h
  · next hf => cases h; exact ⟨f.getLsbD 0, by revert f; decide, rfl⟩
  · cases h

/-- LOAD's flags are its three failure flags, with F3 = 0 (R72, second row). -/
theorem decodeLoad_command {f : BitVec 4} {i : Instr} (h : decodeLoad f = .command i) :
    ∃ tperr hxerr h1err, f = encodeFlags (.load tperr hxerr h1err) ∧ i = .load tperr hxerr h1err := by
  unfold decodeLoad at h
  split at h
  · next hf => cases h; exact ⟨f.getLsbD 0, f.getLsbD 1, f.getLsbD 2, by revert f; decide, rfl⟩
  · cases h

/-- A word the decoder reads as a command has that command's fields. -/
theorem decode_command_fields {w : CmdWord} {i : Instr} (h : decode w = .command i) :
    fieldRsv w = 0#8 ∧ fieldFlags w = encodeFlags i ∧ fieldOp w = encodeOp i := by
  have hrsv : fieldRsv w = 0#8 := by
    by_contra hne
    cases (decode_of_rsv hne).symm.trans h
  refine ⟨hrsv, ?_⟩
  simp only [decode, hrsv, ne_eq, not_true_eq_false, if_false] at h
  split at h
  case h_1 hop | h_7 hop | h_8 hop =>
    obtain ⟨hf, rfl⟩ := decodeBare_command h
    exact ⟨hf, BitVec.eq_of_toNat_eq hop⟩
  case h_2 hop =>
    obtain ⟨tperr, hxerr, h1err, hf, rfl⟩ := decodeLoad_command h
    exact ⟨hf, BitVec.eq_of_toNat_eq hop⟩
  case h_3 hop | h_4 hop | h_5 hop | h_6 hop =>
    obtain ⟨rderr, hf, rfl⟩ := decodeSample_command h
    exact ⟨hf, BitVec.eq_of_toNat_eq hop⟩
  case h_9 => cases h

/-- A word the decoder reads as a command is that command's encoding. -/
theorem eq_encode_of_decode {w : CmdWord} {i : Instr} (h : decode w = .command i) : w = encode i := by
  obtain ⟨hrsv, hflags, hop⟩ := decode_command_fields h
  rw [word_split w, hrsv, hflags, hop, encode]

/-- A command's word breaks none of R73 and R74: RSV = 0, OP below 8, F3 = 0, and only assigned flags set. -/
theorem encode_wellFormed (i : Instr) :
    (encode i).toNat / 256 = 0 ∧ (encode i).toNat % 16 < 8 ∧ (encode i).getLsbD 7 = false ∧
    ((encode i).toNat % 16 = 0 ∨ (encode i).toNat % 16 = 6 ∨ (encode i).toNat % 16 = 7 →
      (encode i).getLsbD 4 = false) ∧
    ((encode i).toNat % 16 ≠ 1 → (encode i).getLsbD 5 = false ∧ (encode i).getLsbD 6 = false) := by
  cases i with
  | nop => decide
  | load tperr hxerr h1err => revert tperr hxerr h1err; decide
  | conv rderr => revert rderr; decide
  | compt rderr => revert rderr; decide
  | compp rderr => revert rderr; decide
  | comph rderr => revert rderr; decide
  | clrerr => decide
  | unload => decide

namespace Machine

/-- An ILLEGAL word takes the fault action and does nothing else (R204). -/
theorem step_illegal {s : State} {w : CmdWord} {rest : List HostAction} {why : IllegalReason}
    (h : s.host = .command w :: rest) (hw : decode w = .illegal why) :
    step s = .next (raiseFault .illegal (s.withHost rest)) := by
  rw [step_cons h, hostAct, runWord, hw]

/-- Settles O2: a word that decodes to a command is its encoding, which breaks none of the five clauses, so a word that
breaks one is ILLEGAL. -/
theorem malformedWordRaisesIllegalOnly : Obligations.MalformedWordRaisesIllegalOnly := by
  intro s w rest hhost hbad
  cases hw : decode w with
  | illegal why => exact step_illegal hhost hw
  | command i =>
    obtain rfl := eq_encode_of_decode hw
    obtain ⟨hrsv, hop, hf3, hf0, hf12⟩ := encode_wellFormed i
    exfalso
    obtain h | h | h | ⟨hno, h⟩ | ⟨hno, h⟩ := hbad
    · exact h hrsv
    · omega
    · simp only [hf3, Bool.false_eq_true] at h
    · simp only [hf0 hno, Bool.false_eq_true] at h
    · simp only [hf12 hno, Bool.false_eq_true, or_self] at h

end Machine

end Sys2Proof
end

section
/-! The two failing ends of LOAD by its failure flags (41_loader_unpacker.md R110), and O8 from them. -/

namespace Sys2Proof.Machine

/-- With TPERR set, LOAD fails in reading the temperature and pressure coefficients, whatever the other flags are. -/
theorem execLoad_of_tperr (hxerr h1err : Bool) (s : State) :
    execLoad true hxerr h1err s = .next (failLoad .coefficientTableReadFailure s) :=
  if_pos rfl

/-- Without TPERR, a humidity failure flag makes LOAD fail in reading the humidity coefficients. -/
theorem execLoad_of_humidityErr {hxerr h1err : Bool} (h : hxerr = true ∨ h1err = true) (s : State) :
    execLoad false hxerr h1err s = .next (failLoad .humidityCoefficientReadFailure s) :=
  (if_neg Bool.false_ne_true).trans (if_pos h)

/-- Settles O8: LOAD tests TPERR before the humidity flags, and either failure writes LOADED, TFV and its own code into
ERR alone. -/
theorem failedLoadReportsFailingStep : Obligations.FailedLoadReportsFailingStep := by
  intro s hxerr h1err
  constructor
  · calc exec (.load true hxerr h1err) s
        = .next (failLoad .coefficientTableReadFailure s) := execLoad_of_tperr hxerr h1err s
      _ = _ := congrArg _ (failLoad_eq _ s)
  · intro hhum
    calc exec (.load false hxerr h1err) s
        = .next (failLoad .humidityCoefficientReadFailure s) := execLoad_of_humidityErr hhum s
      _ = _ := congrArg _ (failLoad_eq _ s)

end Sys2Proof.Machine
end

section
/-! The two writings of the pipelines, for `OVF` = wrap (00_scope.md R9, 42_compensation.md R140 to R151): what the
machine computes operation by operation is the value of the claims' formulas. Then a sample command that completes, and
O17, O18 and O20 from them. -/

namespace Sys2Proof.Machine

open Sys2Proof.Claims

/-! ### The operations -/

/-- A 32-bit operation of the wrap machine holds the claims' signed representative. -/
theorem w32_wrap_eq_s32 (v : Int) : w32 .wrap v = some (s32 v) :=
  congrArg some (wrap_eq_bmod 32 (by decide) v)

/-- A 64-bit operation of the wrap machine holds the claims' signed representative. -/
theorem w64_wrap_eq_s64 (v : Int) : w64 .wrap v = some (s64 v) :=
  congrArg some (wrap_eq_bmod 64 (by decide) v)

/-- The machine's right shift divides by a positive number, where the two floor divisions agree (R9). -/
theorem asr_eq_shr (a : Int) (k : Nat) : asr a k = shr a k :=
  (Int.fdiv_eq_ediv_of_nonneg a (by positivity)).symm

/-- The clamp of R150 at its two bounds. -/
theorem clamp_eq_clampFormula (v : Int) : clamp v 0 humidityMax = clampFormula v := rfl

/-- The output shift of R151. -/
theorem humOutShiftAmount_eq_humShift (shift : HumOutShift) : humOutShiftAmount shift = humShift shift := by
  cases shift <;> rfl

/-! ### The pipelines -/

/-- The fine temperature of the wrap machine (R144). -/
theorem fineTemp_wrap (x : CoefReg → Int) (adcT : Int) :
    fineTemp .wrap x adcT = some (fineTempFormula s32 x adcT) := by
  simp only [fineTemp, w32_wrap_eq_s32, asr_eq_shr, shl, Int.reducePow]
  rfl

/-- The temperature of the wrap machine (R145). -/
theorem tempOut_wrap (tf : Int) : tempOut .wrap tf = some (tempOutFormula s32 tf) := by
  simp only [tempOut, w32_wrap_eq_s32, asr_eq_shr]
  rfl

/-- The terms before the guard of the wrap machine (R146). -/
theorem pressureTerms_wrap (x : CoefReg → Int) (tf : Int) :
    pressureTerms .wrap x tf =
      some { v2 := (pressureTermsFormula s64 x tf).1, denom := (pressureTermsFormula s64 x tf).2 } := by
  simp only [pressureTerms, w64_wrap_eq_s64, asr_eq_shr, shl, Int.reducePow]
  rfl

/-- The final p of the wrap machine (R146), for whatever terms. -/
theorem pressureQuotient_wrap (x : CoefReg → Int) (adcP : Int) (t : PressureTerms) :
    pressureQuotient .wrap x adcP t = some (pressureQuotientFormula s64 x adcP t.v2 t.denom) := by
  simp only [pressureQuotient, w64_wrap_eq_s64, asr_eq_shr, shl, Int.reducePow]
  rfl

/-- P_OUT and the guard of the wrap machine (R146 to R148). -/
theorem pressure_wrap (x : CoefReg → Int) (adcP tf : Int) :
    pressure .wrap x adcP tf = some (pressureFormula s64 x adcP tf) := by
  simp only [pressure, pressureFormula, pressureTerms_wrap, pressureQuotient_wrap, Option.bind_eq_bind,
    Option.bind_some]
  split
  · rfl
  · rfl

/-- The unclamped intermediate of the wrap machine (R149). -/
theorem humidityUnclamped_wrap (x : CoefReg → Int) (adcH tf : Int) :
    humidityUnclamped .wrap x adcH tf = some (humidityFormula s32 x adcH tf) := by
  simp only [humidityUnclamped, w32_wrap_eq_s32, asr_eq_shr, shl, Int.reducePow]
  rfl

/-- The humidity result of the wrap machine: the formula's intermediate, clamped and shifted (R149 to R151). -/
theorem humidity_wrap {p : Params} (hp : p.ovf = .wrap) (x : CoefReg → Int) (adcH tf : Int) :
    humidity p x adcH tf = some (humidityFinish p.humOutShift (humidityFormula s32 x adcH tf)) := by
  simp only [humidity, hp, humidityUnclamped_wrap]
  rfl

/-! ### The commands -/

/-- A sample command past the checks of R209 whose computation has a result ends in it. -/
theorem sampleCommand_of_body {n : Bool} {body : State → Option State} {s t : State}
    (hloaded : s.status.loaded = true) (htfv : n = true → s.status.tfv = true) (hbody : body s = some t) :
    sampleCommand n false body s = t := by
  rw [sampleCommand_body hloaded htfv, hbody, Option.getD_some]

/-- The writes of a temperature result are the claims' (R152). -/
theorem writeTemperature_eq_temperatureWritten (tf tv : Int) (s : State) :
    writeTemperature tf tv s = temperatureWritten tf tv s := rfl

/-- The writes of a pressure result are the claims' (R153). -/
theorem writePressure_eq_pressureWritten (r : Int × Bool) (s : State) :
    writePressure r.1 r.2 s = pressureWritten r s := rfl

/-- The writes of a humidity result are the claims' (R150, R151, R154). -/
theorem writeHumidity_eq_humidityWritten (v : Int) (s : State) :
    writeHumidity (humidityFinish s.params.humOutShift v) s = humidityWritten v s := by
  simp only [writeHumidity_eq, humidityFinish, asr_eq_shr, clamp_eq_clampFormula, humOutShiftAmount_eq_humShift]
  rfl

/-- COMPT's computation in the wrap machine (R152). -/
theorem comptBody_wrap {s : State} (hwrap : s.params.ovf = .wrap) :
    comptBody s = some (temperatureWritten (fineTempFormula s32 s.x (adcT s))
      (tempOutFormula s32 (fineTempFormula s32 s.x (adcT s))) s) := by
  simp only [comptBody, hwrap, rawSample_eq, fineTemp_wrap, tempOut_wrap, Option.bind_eq_bind, Option.bind_some,
    Option.pure_def, writeTemperature_eq_temperatureWritten]

/-- COMPP's computation in the wrap machine (R153). -/
theorem comppBody_wrap {s : State} (hwrap : s.params.ovf = .wrap) :
    comppBody s = some (pressureWritten (pressureFormula s64 s.x (adcP s) s.tfine.toInt) s) := by
  simp only [comppBody, hwrap, rawSample_eq, pressure_wrap, Option.bind_eq_bind, Option.bind_some, Option.pure_def,
    writePressure_eq_pressureWritten, State.outValue]

/-- COMPH's computation in the wrap machine (R154). -/
theorem comphBody_wrap {s : State} (hwrap : s.params.ovf = .wrap) :
    comphBody s = some (humidityWritten (humidityFormula s32 s.x (adcH s) s.tfine.toInt) s) := by
  simp only [comphBody, rawSample_eq, humidity_wrap hwrap, Option.bind_eq_bind, Option.bind_some, Option.pure_def,
    writeHumidity_eq_humidityWritten, State.outValue]

/-- Settles O17: past the checks of R209 COMPT ends in its computation, whose values are the formulas'. -/
theorem comptComputesTemperature : Obligations.ComptComputesTemperature := fun _ hloaded hwrap =>
  congrArg Host.Outcome.next (sampleCommand_of_body hloaded nofun (comptBody_wrap hwrap))

/-- Settles O18: past the checks of R209 COMPP ends in its computation, whose values are the formula's. -/
theorem comppComputesPressure : Obligations.ComppComputesPressure := fun _ hloaded htfv hwrap =>
  congrArg Host.Outcome.next (sampleCommand_of_body hloaded (fun _ => htfv) (comppBody_wrap hwrap))

/-- Settles O20: past the checks of R209 COMPH ends in its computation, whose values are the formula's, clamped and
shifted. -/
theorem comphComputesHumidity : Obligations.ComphComputesHumidity := fun _ hloaded htfv hwrap =>
  congrArg Host.Outcome.next (sampleCommand_of_body hloaded (fun _ => htfv) (comphBody_wrap hwrap))

end Sys2Proof.Machine
end

section
/-! The commands without flags (43_control.md, 30_encoding.md R72, first row): each is the one command of its opcode, so
a word with that opcode is the command's own word or ILLEGAL. Then O35 and O36 from them. -/

namespace Sys2Proof

/-- OP is the word's lowest hexadecimal digit (R70). -/
theorem toNat_fieldOp (w : CmdWord) : (fieldOp w).toNat = w.toNat % 16 := by
  simp [fieldOp]

/-- NOP, CLRERR and UNLOAD are decoded from their own words. -/
theorem decode_encode_of_flagless : ∀ c ∈ [Instr.nop, .clrerr, .unload], decode (encode c) = .command c := by
  decide

/-- No other command has the opcode of NOP, of CLRERR or of UNLOAD (R71). -/
theorem eq_of_encodeOp_eq_flagless {c i : Instr} (hc : c ∈ [Instr.nop, .clrerr, .unload])
    (hop : encodeOp i = encodeOp c) : i = c := by
  simp only [List.mem_cons, List.not_mem_nil, or_false] at hc
  obtain rfl | rfl | rfl := hc
  · cases i with
    | nop => rfl
    | _ => cases hop
  · cases i with
    | clrerr => rfl
    | _ => cases hop
  · cases i with
    | unload => rfl
    | _ => cases hop

namespace Machine

/-- A word with the opcode of a command `c` without flags runs `c` if it is the word of `c`, and is ILLEGAL otherwise
(R73, R77). -/
theorem step_of_flagless_opcode {c : Instr} {s t : State} {w : CmdWord} {rest : List HostAction}
    (hc : c ∈ [Instr.nop, .clrerr, .unload]) (hhost : s.host = .command w :: rest)
    (hop : w.toNat % 16 = (encodeOp c).toNat) (hexec : exec c (s.withHost rest) = .next t) :
    step s = .next (if w = encode c then t else raiseFault .illegal (s.withHost rest)) := by
  cases hw : decode w with
  | illegal why =>
    have hne : w ≠ encode c := by
      rintro rfl
      cases hw.symm.trans (decode_encode_of_flagless c hc)
    rw [if_neg hne, step_illegal hhost hw]
  | command i =>
    obtain ⟨-, -, hfield⟩ := decode_command_fields hw
    have hopi : encodeOp i = encodeOp c := BitVec.eq_of_toNat_eq (by rw [← hfield, toNat_fieldOp, hop])
    obtain rfl := eq_of_encodeOp_eq_flagless hc hopi
    rw [if_pos (eq_encode_of_decode hw), step_cons hhost, hostAct, runWord, hw, ← hexec]

/-- Settles O35: NOP answers the state it got, and it is the one command with OP = 0, with the word 0x0000. -/
theorem nopChangesNothing : Obligations.NopChangesNothing :=
  ⟨fun _ => rfl, fun _ _ _ hhost hop => step_of_flagless_opcode (c := .nop) (by decide) hhost hop rfl⟩

/-- Settles O36: CLRERR writes ERR alone, and it is the one command with OP = 6, with the word 0x0006. -/
theorem clrerrClearsErrOnly : Obligations.ClrerrClearsErrOnly :=
  ⟨fun _ => rfl, fun _ _ _ hhost hop => step_of_flagless_opcode (c := .clrerr) (by decide) hhost hop rfl⟩

end Machine

end Sys2Proof
end

section
/-! The fault action in the claims' words (60_exceptions.md R208), NOT_LOADED of a sample command (R202, R209 item 2), and
O29 from them. -/

namespace Sys2Proof.Machine

open Sys2Proof.Claims

/-- The fault action writes what the claims say it writes (R208). -/
theorem raiseFault_eq_faultWritten (e : ErrorName) (s : State) : raiseFault e s = faultWritten e.code s := rfl

/-- With LOADED = 0 a sample command ends in NOT_LOADED, whatever its flag, its need of TFINE and its computation are. -/
theorem sampleCommand_eq_faultWritten_notLoaded {s : State} (hloaded : s.status.loaded = false) (n r : Bool)
    (body : State → Option State) : sampleCommand n r body s = faultWritten 11 s := by
  rw [sampleCommand_notLoaded hloaded, raiseFault_eq_faultWritten, ErrorName.code]

/-- Settles O29: each of the four commands is `sampleCommand` with its own computation, and LOADED is checked before
everything else. -/
theorem sampleCommandsFaultUntilLoaded : Obligations.SampleCommandsFaultUntilLoaded := by
  intro s rderr hloaded
  have hfault (n : Bool) (body : State → Option State) :
      (.next (sampleCommand n rderr body s) : Host.Outcome State Fault Refusal) = .next (faultWritten 11 s) :=
    congrArg Host.Outcome.next (sampleCommand_eq_faultWritten_notLoaded hloaded n rderr body)
  exact ⟨hfault false convBody, hfault false comptBody, hfault true comppBody, hfault true comphBody⟩

end Sys2Proof.Machine
end

section
/-! The 19 commands and their words (30_encoding.md R70 to R77): the decoder inverts the encoder, the rows of the table of
R77 cover exactly the commands' words, and O4, O5, O6, O3 and O1 from them. -/

namespace Sys2Proof

/-- The decoder reads a command from the command's word. -/
@[simp] theorem decode_encode (i : Instr) : decode (encode i) = .command i := by
  cases i with
  | nop => decide
  | load tperr hxerr h1err => revert tperr hxerr h1err; decide
  | conv rderr => revert rderr; decide
  | compt rderr => revert rderr; decide
  | compp rderr => revert rderr; decide
  | comph rderr => revert rderr; decide
  | clrerr => decide
  | unload => decide

/-- Settles O4: the decoder's commands are the encoder's words, and the decoder inverts the encoder. -/
theorem decodeAndEncodeAgree : Obligations.DecodeAndEncodeAgree := fun _ i =>
  ⟨eq_encode_of_decode, fun h => h ▸ decode_encode i⟩

/-- Every command with its flags, in the order of 30_encoding.md R71. -/
def allCommands : List Instr :=
  [.nop, .load false false false, .load true false false, .load false true false, .load true true false,
   .load false false true, .load true false true, .load false true true, .load true true true,
   .conv false, .conv true, .compt false, .compt true, .compp false, .compp true, .comph false, .comph true,
   .clrerr, .unload]

theorem mem_allCommands (i : Instr) : i ∈ allCommands := by
  cases i with
  | nop => decide
  | load tperr hxerr h1err => revert tperr hxerr h1err; decide
  | conv rderr => revert rderr; decide
  | compt rderr => revert rderr; decide
  | compp rderr => revert rderr; decide
  | comph rderr => revert rderr; decide
  | clrerr => decide
  | unload => decide

/-- The legal words are the words of the 19 commands. -/
theorem exists_decode_iff_mem_map_encode (w : CmdWord) :
    (∃ i, decode w = .command i) ↔ w ∈ allCommands.map encode := by
  rw [List.mem_map]
  constructor
  · rintro ⟨i, hi⟩
    exact ⟨i, mem_allCommands i, (eq_encode_of_decode hi).symm⟩
  · rintro ⟨i, -, rfl⟩
    exact ⟨i, decode_encode i⟩

/-- Settles O5: the listed words are the words of the 19 commands. -/
theorem exactlyNineteenWordsAreLegal : Obligations.ExactlyNineteenWordsAreLegal := exists_decode_iff_mem_map_encode

/-- A command's word is covered by some row of R77. -/
theorem legal_of_decode {w : CmdWord} {i : Instr} (h : decode w = .command i) : CmdWord.legal w = true := by
  have hall : ∀ c ∈ allCommands, CmdWord.legal (encode c) = true := by decide
  rw [eq_encode_of_decode h]
  exact hall i (mem_allCommands i)

/-- Settles O3: the decoder is run on the legal words, and no row covers one of the illegal ones. -/
theorem decoderReadsTableWords : Obligations.DecoderReadsTableWords := by
  have hillegal : [(0x0010 : CmdWord), 0x00F1, 0x0081, 0x0022, 0x0016, 0x0017, 0x0008, 0x000F, 0x0100, 0x8001,
      0xFFFF].all (fun w => !CmdWord.legal w) = true := by decide
  refine ⟨by decide, by decide, by decide, by decide, by decide, by decide, by decide, by decide, by decide, by decide,
    by decide, by decide, by decide, fun w hw i hi => ?_⟩
  simpa only [legal_of_decode hi, Bool.not_true, Bool.false_eq_true] using List.all_eq_true.1 hillegal w hw

/-! ### The rows of R77 -/

/-- A word whose only bits are F0, F1 and F2. -/
def flagBits (f : BitVec 3) : CmdWord := 0#9 ++ f ++ 0#4

/-- Bits 6:4 of a word, in place. -/
theorem and_flagMask (w : CmdWord) : w &&& 0x0070 = flagBits (w.extractLsb' 4 3) := by
  apply BitVec.eq_of_getLsbD_eq
  intro i hi
  simp only [flagBits, BitVec.getLsbD_append, BitVec.getLsbD_and, BitVec.getLsbD_extractLsb']
  interval_cases i <;> simp

/-- Outside its mask a row leaves F0, F1 and F2 at most free. -/
theorem not_mask_le_flagMask : ∀ r ∈ opcodeRows, ~~~r.mask = 0x0070 &&& ~~~r.mask := by decide

/-- A word a row covers is the row's value with some of F0, F1 and F2 set. -/
theorem eq_value_or_flagBits {w : CmdWord} {r : OpcodeRow} (hr : r ∈ opcodeRows) (hw : w &&& r.mask = r.value) :
    w = r.value ||| (flagBits (w.extractLsb' 4 3) &&& ~~~r.mask) := by
  have hsplit : w = (w &&& r.mask) ||| (w &&& ~~~r.mask) := by
    rw [← BitVec.and_or_distrib_left, BitVec.or_not_self, BitVec.and_allOnes]
  rw [← and_flagMask, BitVec.and_assoc, ← not_mask_le_flagMask r hr, ← hw]
  exact hsplit

/-- A row's value with any of its free flags set is the word of a command with the row's mnemonic. -/
theorem row_words : ∀ r ∈ opcodeRows, ∀ f : BitVec 3,
    ∃ i ∈ allCommands, r.value ||| (flagBits f &&& ~~~r.mask) = encode i ∧ i.mnemonic = r.mnemonic := by decide

/-- The word of a command meets the rows of its mnemonic. -/
theorem row_covers_encode : ∀ i ∈ allCommands, ∀ r ∈ opcodeRows, i.mnemonic = r.mnemonic →
    encode i &&& r.mask = r.value := by decide

/-- No two rows have one mnemonic. -/
theorem row_eq_of_mnemonic_eq : ∀ r ∈ opcodeRows, ∀ r' ∈ opcodeRows, r.mnemonic = r'.mnemonic → r = r' := by decide

/-- A row covers exactly the words of its commands (R77). -/
theorem row_covers_iff {w : CmdWord} {r : OpcodeRow} (hr : r ∈ opcodeRows) :
    w &&& r.mask = r.value ↔ ∃ i, decode w = .command i ∧ i.mnemonic = r.mnemonic := by
  constructor
  · intro hw
    obtain ⟨i, -, henc, hname⟩ := row_words r hr (w.extractLsb' 4 3)
    rw [eq_value_or_flagBits hr hw, henc]
    exact ⟨i, decode_encode i, hname⟩
  · rintro ⟨i, hi, hname⟩
    rw [eq_encode_of_decode hi]
    exact row_covers_encode i (mem_allCommands i) r hr hname

/-- The failure flags of LOAD stand at F0, F1 and F2 (R72). -/
theorem encode_load_flags (tperr hxerr h1err : Bool) :
    tperr = (encode (.load tperr hxerr h1err)).getLsbD 4 ∧ hxerr = (encode (.load tperr hxerr h1err)).getLsbD 5 ∧
    h1err = (encode (.load tperr hxerr h1err)).getLsbD 6 := by
  revert tperr hxerr h1err; decide

/-- RDERR stands at F0 in all four sample commands (R72). -/
theorem encode_sample_flag (rderr : Bool) :
    ∀ c ∈ [Instr.conv, .compt, .compp, .comph], rderr = (encode (c rderr)).getLsbD 4 := by
  intro c hc
  simp only [List.mem_cons, List.not_mem_nil, or_false] at hc
  obtain rfl | rfl | rfl | rfl := hc <;> revert rderr <;> decide

/-- Settles O6: a row covers the words of its commands alone, a word is one command's and so has one mnemonic, and the
flags of a command stand in its word. -/
theorem rowMatchesExactlyItsCommands : Obligations.RowMatchesExactlyItsCommands := by
  refine ⟨fun w r hr => row_covers_iff hr, fun w r hr r' hr' hw hw' => ?_, fun w a b c hw => ?_, fun w rderr hw => ?_⟩
  · obtain ⟨i, hi, hname⟩ := (row_covers_iff hr).1 hw
    obtain ⟨i', hi', hname'⟩ := (row_covers_iff hr').1 hw'
    cases hi.symm.trans hi'
    exact row_eq_of_mnemonic_eq r hr r' hr' (hname.symm.trans hname')
  · rw [eq_encode_of_decode hw]
    exact encode_load_flags a b c
  · obtain h | h | h | h := hw <;> rw [eq_encode_of_decode h] <;> exact encode_sample_flag rderr _ (by simp)

namespace Machine

/-- A command word that decodes is its command. -/
theorem runWord_of_decode {w : CmdWord} {i : Instr} (hw : decode w = .command i) (s : State) :
    runWord w s = exec i s := by
  rw [runWord, hw]

/-- A command word that does not decode takes the fault action (R204). -/
theorem runWord_of_illegal {w : CmdWord} {why : IllegalReason} (hw : decode w = .illegal why) (s : State) :
    runWord w s = .next (raiseFault .illegal s) := by
  rw [runWord, hw]

/-- A command word that decodes runs its command on what is left of the host's list. -/
theorem step_command {s : State} {w : CmdWord} {rest : List HostAction} {i : Instr}
    (h : s.host = .command w :: rest) (hw : decode w = .command i) : step s = exec i (s.withHost rest) := by
  rw [step_cons h, hostAct, runWord_of_decode hw]

/-- Settles O1: taking a word off the host's list and running what it decodes to is `step`'s own order. -/
theorem stepRunsDecodedCommand : Obligations.StepRunsDecodedCommand := fun _ _ _ _ => step_command

end Machine

end Sys2Proof
end

section
/-! The checks of R209 behind LOADED (60_exceptions.md R203, R206) and UNLOAD (43_control.md R192), and O30, O31 and O37
from them. -/

namespace Sys2Proof.Machine

open Sys2Proof.Claims

/-- Settles O30: COMPP and COMPH need TFINE, and TFV is checked right after LOADED. -/
theorem pressureAndHumidityNeedTfine : Obligations.PressureAndHumidityNeedTfine := by
  intro s rderr hloaded htfv
  have hfault (body : State → Option State) : sampleCommand true rderr body s = faultWritten 12 s :=
    sampleCommand_tfineInvalid hloaded htfv
  exact ⟨congrArg Host.Outcome.next (hfault comppBody), congrArg Host.Outcome.next (hfault comphBody)⟩

/-- Settles O31: a sample command that passes its checks looks at RDERR before it computes. -/
theorem failedSampleReadIsReported : Obligations.FailedSampleReadIsReported := by
  intro s hloaded
  have herror (n : Bool) (htfv : n = true → s.status.tfv = true) (body : State → Option State) :
      sampleCommand n true body s = errorWritten 9 s := sampleCommand_readFailure hloaded htfv
  exact ⟨congrArg Host.Outcome.next (herror false nofun convBody), congrArg Host.Outcome.next (herror false nofun comptBody),
    fun htfv => ⟨congrArg Host.Outcome.next (herror true (fun _ => htfv) comppBody),
      congrArg Host.Outcome.next (herror true (fun _ => htfv) comphBody)⟩⟩

/-- Settles O37: UNLOAD clears LOADED and TFV, it is the one command with OP = 7, and LOADED = TFV = 0 decides the sample
commands and the reads. -/
theorem unloadInvalidatesCoefficients : Obligations.UnloadInvalidatesCoefficients := by
  refine ⟨fun _ => rfl, fun _ _ _ hhost hop => step_of_flagless_opcode (c := .unload) (by decide) hhost hop rfl, ?_⟩
  intro s t h
  obtain rfl : invalidateCoef s = t := by cases h; rfl
  exact ⟨fun rderr => sampleCommandsFaultUntilLoaded _ rderr rfl, readPort_coef_noValue rfl, readPort_out_noValue rfl⟩

end Sys2Proof.Machine
end

section
/-! Everything a command and a host action can do, said once (10_state.md R20, 60_exceptions.md R200): the ends of a
command, the effects of an action, and that nothing else is answered. -/

namespace Sys2Proof.Machine

/-! ### STATUS after the fault action and the reported-error action -/

@[simp] theorem raiseFault_status (e : ErrorName) (s : State) :
    (raiseFault e s).status = s.status.faulted e.code := rfl

@[simp] theorem reportError_status (e : ErrorName) (s : State) :
    (reportError e s).status = s.status.errored e.code := rfl

/-! ### Commands -/

/-- The ends of a command (R200): completion with its writes, a reported error, a fault. -/
inductive CommandEnd (s : State) : Instr → State → Prop where
  | nop : CommandEnd s .nop s
  | errCleared : CommandEnd s .clrerr s.withErrCleared
  | unloaded : CommandEnd s .unload (invalidateCoef s)
  | loadFailed {tperr hxerr h1err : Bool} {e : ErrorName}
      (he : e = .coefficientTableReadFailure ∨ e = .humidityCoefficientReadFailure) :
      CommandEnd s (.load tperr hxerr h1err) (failLoad e s)
  | loaded : CommandEnd s (.load false false false) (loadAll s)
  | faulted {i : Instr} {e : ErrorName}
      (he : e = .notLoaded ∨ e = .tfineInvalid ∨ e = .overflow ∧ s.params.ovf = .fault) :
      CommandEnd s i (raiseFault e s)
  | readFailed {i : Instr} : CommandEnd s i (reportError .genericBusReadFailure s)
  | temperature {tf tv : Int} (hloaded : s.status.loaded = true)
      (htf : fineTemp s.params.ovf s.x (rawSample s.samplePort).adcT = some tf)
      (htv : tempOut s.params.ovf tf = some tv) :
      CommandEnd s (.compt false) (writeTemperature tf tv s)
  | pressure {r : Int × Bool}
      (hr : pressure s.params.ovf s.x (rawSample s.samplePort).adcP s.tfine.toInt = some r) :
      CommandEnd s (.compp false) (writePressure r.1 r.2 s)
  | humidity {r : HumidityResult}
      (hr : humidity s.params s.x (rawSample s.samplePort).adcH s.tfine.toInt = some r) :
      CommandEnd s (.comph false) (writeHumidity r s)
  | conversion {tf tv : Int} {r : Int × Bool} {h : HumidityResult} (hloaded : s.status.loaded = true)
      (htf : fineTemp s.params.ovf s.x (rawSample s.samplePort).adcT = some tf)
      (htv : tempOut s.params.ovf tf = some tv)
      (hr : Machine.pressure s.params.ovf s.x (rawSample s.samplePort).adcP tf = some r)
      (hh : Machine.humidity s.params s.x (rawSample s.samplePort).adcH tf = some h) :
      CommandEnd s (.conv false) (writeHumidity h (writePressure r.1 r.2 (writeTemperature tf tv s)))

/-- A sample command ends as its checks say, or with its computation's writes; it overflows only with `OVF` = fault. -/
theorem sampleCommand_end {i : Instr} {n r : Bool} {body : State → Option State} {s : State}
    (htotal : s.params.ovf = .wrap → ∃ t, body s = some t)
    (hbody : ∀ t, r = false → s.status.loaded = true → body s = some t → CommandEnd s i t) :
    CommandEnd s i (sampleCommand n r body s) := by
  obtain ⟨e, he, hfault⟩ | herror | ⟨hloaded, -, hr, hdone⟩ := sampleCommand_cases n r body s
  · rw [hfault]
    refine .faulted (he.imp_right (Or.imp_right fun ⟨heq, hnone⟩ => ⟨heq, ?_⟩))
    cases hovf : s.params.ovf with
    | fault => rfl
    | wrap =>
      obtain ⟨t, ht⟩ := htotal hovf
      cases hnone.symm.trans ht
  · rw [herror]
    exact .readFailed
  · exact hbody _ hr hloaded hdone

/-- Whatever a command answers is one of its ends. -/
theorem exec_end {i : Instr} {s t : State} (h : exec i s = .next t) : CommandEnd s i t := by
  cases i with
  | nop => cases h; exact .nop
  | clrerr => cases h; exact .errCleared
  | unload => cases h; exact .unloaded
  | load tperr hxerr h1err =>
    obtain ⟨-, hload⟩ | ⟨-, -, hload⟩ | ⟨rfl, rfl, rfl, hload⟩ := execLoad_cases tperr hxerr h1err s
    · cases hload.symm.trans h; exact .loadFailed (.inl rfl)
    · cases hload.symm.trans h; exact .loadFailed (.inr rfl)
    · cases hload.symm.trans h; exact .loaded
  | compt rderr =>
    cases h
    refine sampleCommand_end (fun hwrap => (body_wrap_total hwrap).1) fun t hr hloaded ht => ?_
    obtain ⟨tf, tv, htf, htv, rfl⟩ := comptBody_some ht
    exact hr ▸ .temperature hloaded htf htv
  | compp rderr =>
    cases h
    refine sampleCommand_end (fun hwrap => (body_wrap_total hwrap).2.1) fun t hr _ ht => ?_
    obtain ⟨r, hpress, rfl⟩ := comppBody_some ht
    exact hr ▸ .pressure hpress
  | comph rderr =>
    cases h
    refine sampleCommand_end (fun hwrap => (body_wrap_total hwrap).2.2.1) fun t hr _ ht => ?_
    obtain ⟨r, hhum, rfl⟩ := comphBody_some ht
    exact hr ▸ .humidity hhum
  | conv rderr =>
    cases h
    refine sampleCommand_end (fun hwrap => (body_wrap_total hwrap).2.2.2) fun t hr hloaded ht => ?_
    obtain ⟨tf, tv, r, hres, htf, htv, hpress, hhum, rfl⟩ := convBody_some ht
    exact hr ▸ .conversion hloaded htf htv hpress hhum

/-- Every command answers a next state. -/
theorem exec_total (i : Instr) (s : State) : ∃ t, exec i s = .next t := by
  obtain ⟨t, ht, -⟩ := exec_withHost i s s.host
  exact ⟨t, ht⟩

/-- A command keeps the parameters, both image ports and the host's list. -/
theorem CommandEnd.frame {i : Instr} {s t : State} (h : CommandEnd s i t) :
    t.params = s.params ∧ t.coefPort = s.coefPort ∧ t.samplePort = s.samplePort ∧ t.host = s.host := by
  cases h <;> exact ⟨rfl, rfl, rfl, rfl⟩

/-! ### Host actions -/

/-- The effects of a host action that does not stop the run (R20). -/
inductive ActionEnd (s : State) : HostAction → State → Prop where
  | coefImage {img : CoefImage} : ActionEnd s (.coefImage img) (s.withCoefPort img)
  | sampleImage {img : SampleImage} : ActionEnd s (.sampleImage img) (s.withSamplePort img)
  | command {w : CmdWord} {i : Instr} {t : State} (hw : decode w = .command i) (h : CommandEnd s i t) :
      ActionEnd s (.command w) t
  | illegal {w : CmdWord} : ActionEnd s (.command w) (raiseFault .illegal s)
  | read {p : ReadPort} : ActionEnd s (.read p) s
  | reset : ActionEnd s .reset (resetInput s)

/-- A command word runs its command or is ILLEGAL (R76, R204). -/
theorem runWord_end {w : CmdWord} {s t : State} (h : runWord w s = .next t) : ActionEnd s (.command w) t := by
  unfold runWord at h
  split at h
  · next i hw => exact .command hw (exec_end h)
  · cases h; exact .illegal

/-- A host read that returns changes no state. -/
theorem runRead_next {p : ReadPort} {s t : State} (h : runRead p s = .next t) : t = s := by
  unfold runRead at h
  split at h
  · cases h; rfl
  · cases h
  · cases h

/-- Whatever a host action answers is one of its effects. -/
theorem hostAct_end {a : HostAction} {s t : State} (h : hostAct a s = .next t) : ActionEnd s a t := by
  cases a with
  | coefImage img => cases h; exact .coefImage
  | sampleImage img => cases h; exact .sampleImage
  | command w => exact runWord_end h
  | read p => obtain rfl := runRead_next h; exact .read
  | reset => cases h; exact .reset

/-- A step is idle, or takes the host's next action. -/
theorem step_cases {s t : State} (h : step s = .next t) :
    s.host = [] ∧ t = s ∨ ∃ a rest, s.host = a :: rest ∧ ActionEnd (s.withHost rest) a t := by
  cases hhost : s.host with
  | nil => rw [step_nil hhost] at h; cases h; exact .inl ⟨rfl, rfl⟩
  | cons a rest => rw [step_cons hhost] at h; exact .inr ⟨a, rest, rfl, hostAct_end h⟩

/-- A host action keeps the parameters and the list of the actions after it. -/
theorem ActionEnd.frame {a : HostAction} {s t : State} (h : ActionEnd s a t) :
    t.params = s.params ∧ t.host = s.host := by
  cases h with
  | command _ h => exact ⟨h.frame.1, h.frame.2.2.2⟩
  | _ => exact ⟨rfl, rfl⟩

/-- Settles O48: an idle step changes nothing, and an action keeps the parameters and what is left of the list. -/
theorem stepKeepsParamsAndTakesOneAction : Obligations.StepKeepsParamsAndTakesOneAction := by
  intro s t h
  obtain ⟨hhost, rfl⟩ | ⟨a, rest, hhost, hact⟩ := step_cases h
  · exact ⟨rfl, by rw [hhost, List.tail_nil]⟩
  · obtain ⟨hparams, hrest⟩ := hact.frame
    exact ⟨hparams, by rw [hrest, hhost, List.tail_cons, State.withHost_host]⟩

/-- Settles O55: an image action is one write of its port. -/
theorem imageActionsWriteTheirPort : Obligations.ImageActionsWriteTheirPort :=
  ⟨fun _ _ _ hhost => step_cons hhost, fun _ _ _ hhost => step_cons hhost⟩

end Sys2Proof.Machine
end

section
/-! How commands end and what each way changes (60_exceptions.md R200, R206, R208), FAULT (10_state.md R36), TFV (R31) and
the outputs' valid bits (R32), and O32, O33, O34, O38 and O40 from them. -/

namespace Sys2Proof.Machine

open Sys2Proof.Claims

/-- The three ways of R200: a completed command leaves FAULT, and ERR but for CLRERR; a reported error writes at most ERR,
LOADED and TFV; a fault writes ERR and FAULT. -/
theorem CommandEnd.three_ways {i : Instr} {s t : State} (h : CommandEnd s i t) :
    (t.status.fault = s.status.fault ∧ (t.status.err = s.status.err ∨ (i = .clrerr ∧ t.status.err = 0))) ∨
    ((t.status.err = 5 ∨ t.status.err = 6 ∨ t.status.err = 9) ∧
      t = { s with status := { s.status with
        err := t.status.err, loaded := t.status.loaded, tfv := t.status.tfv } }) ∨
    ((t.status.err = 11 ∨ t.status.err = 12 ∨ t.status.err = 14) ∧ t = faultWritten t.status.err s) := by
  cases h with
  | errCleared => exact .inl ⟨rfl, .inr ⟨rfl, rfl⟩⟩
  | loadFailed he =>
    refine .inr (.inl ⟨?_, rfl⟩)
    obtain rfl | rfl := he
    · exact .inl rfl
    · exact .inr (.inl rfl)
  | readFailed => exact .inr (.inl ⟨.inr (.inr rfl), rfl⟩)
  | faulted he =>
    refine .inr (.inr ⟨?_, rfl⟩)
    obtain rfl | rfl | ⟨rfl, -⟩ := he
    · exact .inl rfl
    · exact .inr (.inl rfl)
    · exact .inr (.inr rfl)
  | _ => exact .inl ⟨rfl, .inl rfl⟩

/-- Settles O32: every command answers a next state, which is one of its ends. -/
theorem everyCommandEndsOneOfThreeWays : Obligations.EveryCommandEndsOneOfThreeWays := by
  intro i s
  obtain ⟨t, ht⟩ := exec_total i s
  exact ⟨t, ht, (exec_end ht).three_ways⟩

/-- A command that raises FAULT takes the fault action. -/
theorem CommandEnd.fault_precise {i : Instr} {s t : State} (h : CommandEnd s i t) (hs : s.status.fault = false)
    (ht : t.status.fault = true) :
    (t.status.err = 11 ∨ t.status.err = 12 ∨ t.status.err = 14) ∧ t = faultWritten t.status.err s := by
  obtain ⟨hfault, -⟩ | ⟨-, heq⟩ | hfaulted := h.three_ways
  · cases hs.symm.trans (hfault.symm.trans ht)
  · rw [heq] at ht
    cases hs.symm.trans ht
  · exact hfaulted

/-- Settles O33: the fault action of a command and the one of an ILLEGAL word both write ERR and FAULT alone. -/
theorem faultsArePrecise : Obligations.FaultsArePrecise := by
  intro s t w rest hhost hstep hs ht
  rw [step_cons hhost] at hstep
  cases hostAct_end hstep with
  | command hw h =>
    obtain ⟨herr, heq⟩ := h.fault_precise hs ht
    exact ⟨heq, herr.imp_right (Or.imp_right .inr)⟩
  | illegal => exact ⟨rfl, .inr (.inr (.inl rfl))⟩

/-- No command clears FAULT (R36). -/
theorem CommandEnd.fault_sticky {i : Instr} {s t : State} (h : CommandEnd s i t) (hs : s.status.fault = true) :
    t.status.fault = true := by
  cases h with
  | faulted _ => rfl
  | _ => exact hs

/-- The reset input alone clears FAULT (R36, R230). -/
theorem ActionEnd.eq_reset_of_fault_cleared {a : HostAction} {s t : State} (h : ActionEnd s a t)
    (hs : s.status.fault = true) (ht : t.status.fault = false) : a = .reset := by
  cases h with
  | reset => rfl
  | command _ h => cases ht.symm.trans (h.fault_sticky hs)
  | illegal => cases ht
  | _ => cases ht.symm.trans hs

/-- Settles O34: every other action keeps a raised FAULT, and the reset input ends with STATUS = 0x0000. -/
theorem onlyResetClearsFault : Obligations.OnlyResetClearsFault := by
  constructor
  · intro s t hstep hs ht
    obtain ⟨-, rfl⟩ | ⟨a, rest, hhost, hact⟩ := step_cases hstep
    · cases hs.symm.trans ht
    · obtain rfl := hact.eq_reset_of_fault_cleared hs ht
      exact ⟨rest, hhost⟩
  · intro s rest hhost
    exact ⟨_, step_reset hhost, rfl⟩

/-! ### TFV -/

/-- A command that raises TFV has computed t_fine, and TFINE holds it (R31). -/
theorem CommandEnd.tfv_raised {i : Instr} {s t : State} (h : CommandEnd s i t) (hs : s.status.tfv = false)
    (ht : t.status.tfv = true) :
    (i = .compt false ∨ i = .conv false) ∧ s.status.loaded = true ∧
      ∃ tf, fineTemp s.params.ovf s.x (adcT s) = some tf ∧ t.tfine = BitVec.ofInt 32 tf := by
  cases h with
  | temperature hloaded htf _ =>
    rw [rawSample_eq] at htf
    exact ⟨.inl rfl, hloaded, _, htf, rfl⟩
  | conversion hloaded htf _ _ _ =>
    rw [rawSample_eq] at htf
    exact ⟨.inr rfl, hloaded, _, htf, rfl⟩
  | unloaded => cases ht
  | loadFailed _ => cases ht
  | loaded => cases ht
  | _ => cases hs.symm.trans ht

/-- Every LOAD clears TFV (R100). -/
theorem execLoad_tfv {tperr hxerr h1err : Bool} {s t : State} (h : execLoad tperr hxerr h1err s = .next t) :
    t.status.tfv = false := by
  obtain ⟨-, hload⟩ | ⟨-, -, hload⟩ | ⟨-, -, -, hload⟩ := execLoad_cases tperr hxerr h1err s <;>
    cases hload.symm.trans h <;> rfl

/-- A sample command keeps TFV when its computation does. -/
theorem sampleCommand_tfv {n r : Bool} {body : State → Option State} {s : State}
    (hbody : ∀ t, body s = some t → t.status.tfv = s.status.tfv) :
    (sampleCommand n r body s).status.tfv = s.status.tfv := by
  obtain ⟨e, -, hfault⟩ | herror | ⟨-, -, -, hdone⟩ := sampleCommand_cases n r body s
  · rw [hfault, raiseFault_status, Status.faulted_tfv]
  · rw [herror, reportError_status, Status.errored_tfv]
  · exact hbody _ hdone

theorem comppBody_tfv {s t : State} (h : comppBody s = some t) : t.status.tfv = s.status.tfv := by
  obtain ⟨r, -, rfl⟩ := comppBody_some h
  rfl

theorem comphBody_tfv {s t : State} (h : comphBody s = some t) : t.status.tfv = s.status.tfv := by
  obtain ⟨r, -, rfl⟩ := comphBody_some h
  rfl

/-- Settles O38: the ends that set TFV are the two that compute t_fine, LOAD and UNLOAD clear it, and a pressure or
humidity result leaves it. -/
theorem tfvFollowsItsRule : Obligations.TfvFollowsItsRule := by
  refine ⟨fun i s t h => (exec_end h).tfv_raised, ?_, ?_⟩
  · rintro s t a b c (h | h)
    · exact execLoad_tfv h
    · cases h; rfl
  · rintro s t r (h | h)
    · cases h; exact sampleCommand_tfv fun _ => comppBody_tfv
    · cases h; exact sampleCommand_tfv fun _ => comphBody_tfv

/-! ### The outputs' valid bits -/

/-- A command keeps T_OUT and TV, or leaves TV = 1 (R32). -/
theorem CommandEnd.tOut_kept_or_valid {i : Instr} {s t : State} (h : CommandEnd s i t) :
    (t.tOut = s.tOut ∧ t.status.tv = s.status.tv) ∨ t.status.tv = true := by
  cases h with
  | temperature _ _ _ => exact .inr rfl
  | conversion _ _ _ _ _ => exact .inr rfl
  | _ => exact .inl ⟨rfl, rfl⟩

/-- A command keeps P_OUT and PV, or leaves PV = 1 (R32). -/
theorem CommandEnd.pOut_kept_or_valid {i : Instr} {s t : State} (h : CommandEnd s i t) :
    (t.pOut = s.pOut ∧ t.status.pv = s.status.pv) ∨ t.status.pv = true := by
  cases h with
  | pressure _ => exact .inr rfl
  | conversion _ _ _ _ _ => exact .inr rfl
  | _ => exact .inl ⟨rfl, rfl⟩

/-- A command keeps H_OUT and HV, or leaves HV = 1 (R32). -/
theorem CommandEnd.hOut_kept_or_valid {i : Instr} {s t : State} (h : CommandEnd s i t) :
    (t.hOut = s.hOut ∧ t.status.hv = s.status.hv) ∨ t.status.hv = true := by
  cases h with
  | humidity _ => exact .inr rfl
  | conversion _ _ _ _ _ => exact .inr rfl
  | _ => exact .inl ⟨rfl, rfl⟩

/-- A register kept with its valid bit, or left with the bit set: the bit stays, and a change comes with it. -/
theorem valid_stays {α : Type} {x x' : α} {v v' : Bool} (h : (x' = x ∧ v' = v) ∨ v' = true) :
    (v = true → v' = true) ∧ (x' ≠ x → v' = true) := by
  obtain ⟨hx, hv⟩ | hv := h
  · exact ⟨fun h => hv.trans h, fun hne => absurd hx hne⟩
  · exact ⟨fun _ => hv, fun _ => hv⟩

/-- Settles O40: each output register is kept with its valid bit, or left valid. -/
theorem outputValidBitsStay : Obligations.OutputValidBitsStay := by
  intro i s t h
  obtain ⟨htv, htOut⟩ := valid_stays (exec_end h).tOut_kept_or_valid
  obtain ⟨hpv, hpOut⟩ := valid_stays (exec_end h).pOut_kept_or_valid
  obtain ⟨hhv, hhOut⟩ := valid_stays (exec_end h).hOut_kept_or_valid
  exact ⟨htv, hpv, hhv, htOut, hpOut, hhOut⟩

end Sys2Proof.Machine
end

section
/-! The invariant (10_state.md R22, R31 to R36, 42_compensation.md R145 to R151, 60_exceptions.md R201 to R208) under each
operation of the machine, and O46 and O47 from that. -/

namespace Sys2Proof.Machine

/-- The image ports and the host's list are no part of the invariant. -/
theorem State.Inv.withHostSide {s : State} (h : s.Inv) (coefImg : CoefImage) (sampleImg : SampleImage)
    (acts : List HostAction) :
    State.Inv { s with coefPort := coefImg, samplePort := sampleImg, host := acts } := { h with }

/-- ERR may take every allowed code, and a fault's code together with FAULT (R201, R208). -/
theorem State.Inv.withErr {s : State} (h : s.Inv) {e : BitVec 4} {f : Bool} (he : errAllowed s.params.ovf e)
    (hf : ErrorName.notLoaded.code.toNat ≤ e.toNat → f = true) :
    State.Inv { s with status := { s.status with err := e, fault := f } } :=
  { h with err_allowed := he, fault_code := hf }

/-- While TFV = 0 the coefficients may be replaced by any that keep H4 and H5 in their ranges (R22, R31). -/
theorem State.Inv.withCoefficients {s : State} (h : s.Inv) {c : CoefFile} {l : Bool}
    (h4 : h45InRange s.params (c.value s.params .h4)) (h5 : h45InRange s.params (c.value s.params .h5)) :
    State.Inv { s with coef := c, status := { s.status with loaded := l, tfv := false } } :=
  { h with tfv_loaded := nofun, tfv_tv := nofun, tOut_of_tfine := nofun, h4_range := h4, h5_range := h5 }

/-- UNLOAD keeps the invariant. -/
theorem State.Inv.invalidateCoef {s : State} (h : s.Inv) : (Machine.invalidateCoef s).Inv :=
  h.withCoefficients h.h4_range h.h5_range

/-- The codes of the fault action (R208). -/
theorem State.Inv.raiseFault {s : State} (h : s.Inv) {e : ErrorName}
    (he : e = .notLoaded ∨ e = .tfineInvalid ∨ e = .illegal ∨ e = .overflow ∧ s.params.ovf = .fault) :
    (Machine.raiseFault e s).Inv := by
  refine h.withErr ?_ fun _ => rfl
  obtain rfl | rfl | rfl | ⟨rfl, hovf⟩ := he <;> simp [errAllowed, *]

/-- The codes of the reported-error action (R206). -/
theorem State.Inv.reportError {s : State} (h : s.Inv) {e : ErrorName}
    (he : e = .coefficientTableReadFailure ∨ e = .humidityCoefficientReadFailure ∨ e = .genericBusReadFailure) :
    (Machine.reportError e s).Inv := by
  refine h.withErr ?_ ?_
  · obtain rfl | rfl | rfl := he <;> simp [errAllowed]
  · obtain rfl | rfl | rfl := he <;> exact fun hcode => absurd hcode (by decide)

/-- CLRERR keeps the invariant (R191). -/
theorem State.Inv.withErrCleared {s : State} (h : s.Inv) : s.withErrCleared.Inv :=
  h.withErr (.inl rfl) fun hcode => absurd hcode (by decide)

/-- What the unpacker gives for H4 and H5 lies in their range (R22, R106). -/
theorem h45InRange_unpack12 (p : Params) {hi lo : Nat} (hhi : hi < 256) (hlo : lo < 16) :
    h45InRange p (unpack12 p.h45Sext hi lo) := unpack12_range p.h45Sext hhi hlo

/-- A successful LOAD keeps the invariant (R100). -/
theorem State.Inv.loadAll {s : State} (h : s.Inv) : (Machine.loadAll s).Inv := by
  refine h.withCoefficients (l := true) ?_ ?_ <;> rw [State.withCoef_coef, value_ofValues_loadedValue]
  · exact h45InRange_unpack12 _ (memRead_one_lt _ _) (lowNibble_lt _)
  · exact h45InRange_unpack12 _ (memRead_one_lt _ _) (highNibble_lt _)

/-- A temperature result keeps the invariant (R144, R145, R152). -/
theorem State.Inv.writeTemperature {s : State} (h : s.Inv) {x : CoefReg → Int} {adcT tf tv : Int}
    (hloaded : s.status.loaded = true) (htf : fineTemp s.params.ovf x adcT = some tf)
    (htv : tempOut s.params.ovf tf = some tv) : (Machine.writeTemperature tf tv s).Inv := by
  have hrange := tempOut_range htv
  have hout : tempOut s.params.ovf (BitVec.ofInt 32 tf).toInt = some (BitVec.ofInt 32 tv).toInt := by
    rw [toInt_ofInt_32 (fineTemp_range htf), toInt_ofInt_32 (by omega), htv]
  exact { h with tfv_loaded := fun _ => hloaded, tfv_tv := fun _ => rfl, tOut_of_tfine := fun _ => hout }

/-- A pressure result keeps the invariant (R147, R153). -/
theorem State.Inv.writePressure {s : State} (h : s.Inv) {r : Int × Bool} (hguard : r.2 = true → r.1 = 0) :
    (Machine.writePressure r.1 r.2 s).Inv := by
  have hzero : r.2 = true → BitVec.ofInt 32 r.1 = 0 := fun hg => by rw [hguard hg]; rfl
  exact { h with pz_pOut := fun hg => ⟨rfl, hzero hg⟩ }

/-- A humidity result keeps the invariant (R150, R151, R154). -/
theorem State.Inv.writeHumidity {s : State} (h : s.Inv) (v : Int) :
    (Machine.writeHumidity (humidityFinish s.params.humOutShift v) s).Inv := by
  obtain ⟨hnonneg, hle, hlo, hhi, hnot⟩ := humidityFinish_spec s.params.humOutShift v
  have hout : ((BitVec.ofInt 32 (humidityFinish s.params.humOutShift v).out).toNat : Int) =
      (humidityFinish s.params.humOutShift v).out :=
    toNat_ofInt_32 ⟨hnonneg, hle.trans_lt (humidityMax_fits _)⟩
  exact { h with
    hlo_hOut := fun hl => ⟨rfl, by rw [writeHumidity_eq, hlo hl]; rfl⟩
    hhi_hOut := fun hh => ⟨rfl, hout.trans (hhi hh)⟩
    not_hlo_hhi := hnot
    hOut_le := hout.trans_le hle }

/-- The reset input meets the invariant from every state (R230, with the contents of log 2). -/
theorem resetInput_inv (s : State) : (resetInput s).Inv where
  tfv_loaded := nofun
  tfv_tv := nofun
  tOut_of_tfine := nofun
  pz_pOut := nofun
  hlo_hOut := nofun
  hhi_hOut := nofun
  not_hlo_hhi := nofun
  hOut_le := by
    change (0 : Int) ≤ asr humidityMax (humOutShiftAmount s.params.humOutShift)
    cases s.params.humOutShift <;> decide
  err_allowed := .inl rfl
  fault_code := fun hcode => absurd hcode (by rw [resetInput_status]; decide)
  h4_range := by
    change h45InRange s.params 0
    unfold h45InRange
    split <;> decide
  h5_range := by
    change h45InRange s.params 0
    unfold h45InRange
    split <;> decide

/-- Settles O47: `State.reset` is its own state after the reset input. -/
theorem resetMeetsInvariant : Obligations.ResetMeetsInvariant := resetInput_inv State.reset

/-- Every end of a command keeps the invariant. -/
theorem CommandEnd.inv {i : Instr} {s t : State} (hend : CommandEnd s i t) (h : s.Inv) : t.Inv := by
  cases hend with
  | nop => exact h
  | errCleared => exact h.withErrCleared
  | unloaded => exact h.invalidateCoef
  | loadFailed he => exact h.invalidateCoef.reportError (he.imp_right .inl)
  | loaded => exact h.loadAll
  | faulted he => exact h.raiseFault (he.imp_right (Or.imp_right .inr))
  | readFailed => exact h.reportError (.inr (.inr rfl))
  | temperature hloaded htf htv => exact h.writeTemperature hloaded htf htv
  | pressure hr => exact h.writePressure (pressure_range hr).2.2
  | humidity hr =>
    obtain ⟨v, -, rfl⟩ := humidity_spec hr
    exact h.writeHumidity v
  | conversion hloaded htf htv hr hh =>
    obtain ⟨v, -, rfl⟩ := humidity_spec hh
    exact ((h.writeTemperature hloaded htf htv).writePressure (pressure_range hr).2.2).writeHumidity v

/-- Every effect of a host action keeps the invariant. -/
theorem ActionEnd.inv {a : HostAction} {s t : State} (hend : ActionEnd s a t) (h : s.Inv) : t.Inv := by
  cases hend with
  | coefImage => exact h.withHostSide _ _ _
  | sampleImage => exact h.withHostSide _ _ _
  | command _ hcmd => exact hcmd.inv h
  | illegal => exact h.raiseFault (.inr (.inr (.inl rfl)))
  | read => exact h
  | reset => exact resetInput_inv s

/-- Settles O46: an idle step keeps the state, and every action the host can take keeps the invariant. -/
theorem stepKeepsInvariant : Obligations.StepKeepsInvariant := by
  intro s t h hstep
  obtain ⟨-, rfl⟩ | ⟨a, rest, -, hact⟩ := step_cases hstep
  · exact h
  · exact hact.inv (h.withHostSide _ _ _)

end Sys2Proof.Machine
end

section
/-! Runs over command words and images (10_state.md R20, 20_memory.md R61): the run rule, and O50, O51, O39 and O14 from
it. -/

namespace Sys2Proof.Machine

open Sys2Proof.Claims

/-! ### One item of a sequence -/

/-- A legal word's state is its command's. -/
theorem afterWord_of_exec {i : Instr} {s t : State} {w : CmdWord} (hw : decode w = .command i)
    (ht : exec i s = .next t) : afterWord s w = t := by
  simp only [afterWord, hw, ht]

/-- An ILLEGAL word's state is the fault action's. -/
theorem afterWord_of_illegal {w : CmdWord} {why : IllegalReason} (hw : decode w = .illegal why) (s : State) :
    afterWord s w = raiseFault .illegal s := by
  simp only [afterWord, hw]
  rfl

/-- A command word answers the state the command rules give (R61, R204). -/
theorem runWord_eq_afterWord (w : CmdWord) (s : State) : runWord w s = .next (afterWord s w) := by
  cases hw : decode w with
  | illegal why => rw [runWord_of_illegal hw, afterWord_of_illegal hw]
  | command i =>
    obtain ⟨t, ht⟩ := exec_total i s
    rw [runWord_of_decode hw, afterWord_of_exec hw ht, ht]

/-- An item answers the state the claims give. -/
theorem hostAct_action (x : RunInput) (s : State) : hostAct x.action s = .next (afterInput s x) := by
  cases x with
  | coefImage img => rfl
  | sampleImage img => rfl
  | word w => exact runWord_eq_afterWord w s

/-- The command rules do not see the host's list (R20). -/
theorem afterWord_withHost (w : CmdWord) (s : State) (acts : List HostAction) :
    afterWord (s.withHost acts) w = (afterWord s w).withHost acts := by
  cases hw : decode w with
  | illegal why => rw [afterWord_of_illegal hw, afterWord_of_illegal hw]; rfl
  | command i =>
    obtain ⟨t, ht, ht'⟩ := exec_withHost i s acts
    rw [afterWord_of_exec hw ht, afterWord_of_exec hw ht']

/-- No item sees the host's list. -/
theorem afterInput_withHost (x : RunInput) (s : State) (acts : List HostAction) :
    afterInput (s.withHost acts) x = (afterInput s x).withHost acts := by
  cases x with
  | coefImage img => rfl
  | sampleImage img => rfl
  | word w => exact afterWord_withHost w s acts

/-- No sequence of items sees the host's list. -/
theorem foldl_afterInput_withHost (xs : List RunInput) (s : State) (acts : List HostAction) :
    xs.foldl afterInput (s.withHost acts) = (xs.foldl afterInput s).withHost acts := by
  induction xs generalizing s with
  | nil => rfl
  | cons x xs ih => rw [List.foldl_cons, List.foldl_cons, afterInput_withHost, ih]

/-! ### Runs -/

/-- A run takes the items one by one and goes on from the fold of the command rules (R61). -/
theorem run_actions (xs : List RunInput) (k : Nat) (s : State) (rest : List HostAction) :
    Sys2Proof.core.run (xs.length + k) (s.withHost (xs.map RunInput.action ++ rest)) =
      Sys2Proof.core.run k (xs.foldl afterInput (s.withHost rest)) := by
  induction xs generalizing s with
  | nil => rw [List.length_nil, Nat.zero_add]; rfl
  | cons x xs ih =>
    have hstep : step (s.withHost ((x :: xs).map RunInput.action ++ rest)) =
        .next ((afterInput s x).withHost (xs.map RunInput.action ++ rest)) := by
      rw [step_cons (a := x.action) (rest := xs.map RunInput.action ++ rest) rfl, State.withHost_withHost,
        hostAct_action, afterInput_withHost]
    have hfold : xs.foldl afterInput ((afterInput s x).withHost rest) =
        (x :: xs).foldl afterInput (s.withHost rest) := by rw [List.foldl_cons, afterInput_withHost]
    rw [List.length_cons, Nat.add_right_comm]
    exact (core_run_next _ hstep).trans ((ih _).trans (congrArg _ hfold))

/-- Settles O50: `run_actions` with no step and with the step of the read behind the sequence. -/
theorem runIsFoldOfCommandRules : Obligations.RunIsFoldOfCommandRules := by
  intro s xs rest
  refine ⟨run_actions xs 0 s rest, fun p => ?_⟩
  have hread : step (xs.foldl afterInput (s.withHost (.read p :: rest))) =
      runRead p (xs.foldl afterInput (s.withHost rest)) := by
    rw [foldl_afterInput_withHost, foldl_afterInput_withHost]
    exact step_cons (a := .read p) (rest := rest) rfl
  exact (run_actions xs 1 s (.read p :: rest)).trans ((core_run_one _).trans hread)

/-- A run over command words is the fold of the command rules over them. -/
theorem run_words (ws : List CmdWord) (s : State) (rest : List HostAction) :
    Sys2Proof.core.run ws.length (s.withHost (ws.map HostAction.command ++ rest)) =
      .next (ws.foldl afterWord (s.withHost rest)) := by
  have hactions : ws.map HostAction.command = (ws.map RunInput.word).map RunInput.action := by
    rw [List.map_map]
    rfl
  have hfold : (ws.map RunInput.word).foldl afterInput (s.withHost rest) = ws.foldl afterWord (s.withHost rest) := by
    rw [List.foldl_map]
    rfl
  have hlength : ws.length = (ws.map RunInput.word).length + 0 := by rw [List.length_map, Nat.add_zero]
  rw [hactions, hlength]
  exact (run_actions _ 0 s rest).trans (congrArg Host.Outcome.next hfold)

/-- A host action that is not a read completes (R200, R230). -/
theorem hostAct_total {a : HostAction} (ha : notRead a = true) (s : State) : ∃ t, hostAct a s = .next t := by
  cases a with
  | coefImage img => exact ⟨_, rfl⟩
  | sampleImage img => exact ⟨_, rfl⟩
  | command w => exact ⟨_, runWord_eq_afterWord w s⟩
  | read p => cases ha
  | reset => exact ⟨_, rfl⟩

/-- Without actions a run stays where it is (log 1). -/
theorem run_idle {s : State} (h : s.host = []) (k : Nat) : Sys2Proof.core.run k s = .next s := by
  induction k with
  | zero => rfl
  | succ k ih => rw [core_run_next k (step_nil h), ih]

/-- A list of actions without reads is worked off in as many steps. -/
theorem run_of_notRead {s : State} {acts : List HostAction} (hhost : s.host = acts)
    (hacts : acts.all notRead = true) :
    ∃ t : State, t.host = [] ∧ ∀ k, acts.length ≤ k → Sys2Proof.core.run k s = .next t := by
  induction acts generalizing s with
  | nil => exact ⟨s, hhost, fun k _ => run_idle hhost k⟩
  | cons a rest ih =>
    rw [List.all_cons, Bool.and_eq_true] at hacts
    obtain ⟨ha, hrest⟩ := hacts
    obtain ⟨u, hu⟩ := hostAct_total ha (s.withHost rest)
    obtain ⟨t, ht, hrun⟩ := ih (hostAct_end hu).frame.2 hrest
    refine ⟨t, ht, fun k hk => ?_⟩
    obtain ⟨j, rfl⟩ : ∃ j, k = j + 1 := ⟨k - 1, by rw [List.length_cons] at hk; omega⟩
    rw [core_run_next j ((step_cons hhost).trans hu)]
    exact hrun j (Nat.le_of_succ_le_succ hk)

/-- Settles O51: the host's list is such a list of actions. -/
theorem everyRunWithoutReadsCompletes : Obligations.EveryRunWithoutReadsCompletes := fun _ hacts =>
  run_of_notRead rfl hacts

/-! ### LOAD and UNLOAD in a run -/

/-- A word that computes no t_fine leaves TFV = 0 (R31). -/
theorem afterWord_tfv {w : CmdWord} {s : State} (hw : ∀ i, decode w = .command i → computesTfine i = false)
    (hs : s.status.tfv = false) : (afterWord s w).status.tfv = false := by
  cases hdec : decode w with
  | illegal why => rw [afterWord_of_illegal hdec]; exact hs
  | command i =>
    obtain ⟨t, ht⟩ := exec_total i s
    rw [afterWord_of_exec hdec ht, ← Bool.not_eq_true]
    intro htfv
    obtain ⟨rfl | rfl, -, -⟩ := (exec_end ht).tfv_raised hs htfv <;> cases hw _ hdec

/-- So do any number of such words. -/
theorem foldl_afterWord_tfv {ws : List CmdWord} {s : State}
    (hws : ∀ w ∈ ws, ∀ i, decode w = .command i → computesTfine i = false) (hs : s.status.tfv = false) :
    (ws.foldl afterWord s).status.tfv = false := by
  induction ws generalizing s with
  | nil => exact hs
  | cons w ws ih =>
    rw [List.forall_mem_cons] at hws
    exact ih hws.2 (afterWord_tfv hws.1 hs)

/-- A LOAD or an UNLOAD leaves TFV = 0 (R31). -/
theorem afterWord_encode_tfv {first : Instr} (hfirst : first = .unload ∨ ∃ a b c, first = .load a b c) (s : State) :
    (afterWord s (encode first)).status.tfv = false := by
  obtain ⟨t, ht⟩ := exec_total first s
  rw [afterWord_of_exec (decode_encode first) ht]
  obtain rfl | ⟨a, b, c, rfl⟩ := hfirst
  · cases ht; rfl
  · exact execLoad_tfv ht

/-- While TFV = 0, COMPP and COMPH fault: NOT_LOADED is checked first, then TFINE_INVALID (R209). -/
theorem pressureAndHumidity_fault_of_tfv {t : State} (ht : t.status.tfv = false) (rderr : Bool) :
    exec (.compp rderr) t = .next (faultWritten (if t.status.loaded then 12 else 11) t) ∧
      exec (.comph rderr) t = .next (faultWritten (if t.status.loaded then 12 else 11) t) := by
  cases hloaded : t.status.loaded with
  | true => exact pressureAndHumidityNeedTfine t rderr hloaded ht
  | false => exact (sampleCommandsFaultUntilLoaded t rderr hloaded).2.2

/-- Settles O39: TFV = 0 after the first word, it stays 0 through the others, and it decides COMPP and COMPH. -/
theorem staleTfineNeverMeetsNewCoefficients : Obligations.StaleTfineNeverMeetsNewCoefficients := by
  intro s first ws rest hfirst hws
  have htfv : (ws.foldl afterWord (afterWord (s.withHost rest) (encode first))).status.tfv = false :=
    foldl_afterWord_tfv hws (afterWord_encode_tfv hfirst _)
  exact ⟨_, run_words (encode first :: ws) s rest, htfv, pressureAndHumidity_fault_of_tfv htfv⟩

/-- Settles O14: LOAD overwrites everything UNLOAD wrote. -/
theorem reloadEndsAsLoadAlone : Obligations.ReloadEndsAsLoadAlone := by
  intro s rest
  have hunload (u : State) : afterWord u (encode .unload) = invalidateCoef u :=
    afterWord_of_exec (decode_encode _) rfl
  have hload (u : State) : afterWord u (encode (.load false false false)) = loadAll u :=
    afterWord_of_exec (decode_encode _) rfl
  have hfold : [encode .unload, encode (.load false false false)].foldl afterWord (s.withHost rest) =
      { loadAll s with host := rest } := by
    rw [List.foldl_cons, List.foldl_cons, List.foldl_nil, hunload, hload]
    rfl
  exact ⟨loadAll s, (run_words _ s rest).trans (congrArg Host.Outcome.next hfold), rfl⟩

end Sys2Proof.Machine
end

section
/-! The computations of the sample commands from their pipelines' results (42_compensation.md R152 to R155), CONV as the
staged sequence, the refinement of `OVF`, and O22 and O27 from them. -/

namespace Sys2Proof.Machine

open Sys2Proof.Claims

/-! ### The computations, from their results -/

theorem comptBody_of {s : State} {tf tv : Int}
    (htf : fineTemp s.params.ovf s.x (rawSample s.samplePort).adcT = some tf)
    (htv : tempOut s.params.ovf tf = some tv) : comptBody s = some (writeTemperature tf tv s) := by
  simp only [comptBody, htf, htv, Option.bind_eq_bind, Option.bind_some, Option.pure_def]

theorem comppBody_of {s : State} {r : Int × Bool}
    (hr : pressure s.params.ovf s.x (rawSample s.samplePort).adcP s.tfine.toInt = some r) :
    comppBody s = some (writePressure r.1 r.2 s) := by
  simp only [comppBody, State.outValue, hr, Option.bind_eq_bind, Option.bind_some, Option.pure_def]

theorem comphBody_of {s : State} {h : HumidityResult}
    (hh : humidity s.params s.x (rawSample s.samplePort).adcH s.tfine.toInt = some h) :
    comphBody s = some (writeHumidity h s) := by
  simp only [comphBody, State.outValue, hh, Option.bind_eq_bind, Option.bind_some, Option.pure_def]

theorem convBody_of {s : State} {tf tv : Int} {r : Int × Bool} {h : HumidityResult}
    (htf : fineTemp s.params.ovf s.x (rawSample s.samplePort).adcT = some tf)
    (htv : tempOut s.params.ovf tf = some tv)
    (hr : pressure s.params.ovf s.x (rawSample s.samplePort).adcP tf = some r)
    (hh : humidity s.params s.x (rawSample s.samplePort).adcH tf = some h) :
    convBody s = some (writeHumidity h (writePressure r.1 r.2 (writeTemperature tf tv s))) := by
  simp only [convBody, htf, htv, hr, hh, Option.bind_eq_bind, Option.bind_some, Option.pure_def]

/-! ### The staged sequence -/

@[simp] theorem writePressure_tfine (p : Int) (g : Bool) (s : State) : (writePressure p g s).tfine = s.tfine := rfl

/-- CONV's computation is COMPT's, COMPP's and COMPH's in a row: TFINE keeps all of t_fine (R26, R155). -/
theorem convBody_eq_some_iff_staged {s t : State} :
    convBody s = some t ↔
      ∃ s₁ s₂, comptBody s = some s₁ ∧ comppBody s₁ = some s₂ ∧ comphBody s₂ = some t := by
  constructor
  · intro hconv
    obtain ⟨tf, tv, r, h, htf, htv, hr, hh, rfl⟩ := convBody_some hconv
    have hkept : (writeTemperature tf tv s).tfine.toInt = tf := toInt_ofInt_32 (fineTemp_range htf)
    refine ⟨_, _, comptBody_of htf htv, comppBody_of (r := r) ?_, comphBody_of (h := h) ?_⟩
    · rw [hkept]; exact hr
    · rw [writePressure_tfine, hkept]; exact hh
  · rintro ⟨s₁, s₂, hcompt, hcompp, hcomph⟩
    obtain ⟨tf, tv, htf, htv, rfl⟩ := comptBody_some hcompt
    obtain ⟨r, hr, rfl⟩ := comppBody_some hcompp
    obtain ⟨h, hh, rfl⟩ := comphBody_some hcomph
    have hkept : (writeTemperature tf tv s).tfine.toInt = tf := toInt_ofInt_32 (fineTemp_range htf)
    rw [hkept] at hr
    rw [writePressure_tfine, hkept] at hh
    exact convBody_of htf htv hr hh

/-- A sample command without RDERR that ends without a fault has completed. -/
theorem body_of_no_fault {n : Bool} {body : State → Option State} {s : State}
    (h : (sampleCommand n false body s).status.fault = false) : body s = some (sampleCommand n false body s) := by
  by_cases hloaded : s.status.loaded = true
  · by_cases htfv : n = true → s.status.tfv = true
    · rw [sampleCommand_body hloaded htfv] at h ⊢
      cases hbody : body s with
      | none => rw [hbody] at h; cases h
      | some t => rfl
    · obtain ⟨rfl, htfine⟩ : n = true ∧ s.status.tfv = false := by simpa using htfv
      rw [sampleCommand_tfineInvalid hloaded htfine] at h
      cases h
  · rw [sampleCommand_notLoaded (by simpa using hloaded)] at h
    cases h

/-- FAULT = 0 after a command means FAULT = 0 before it (R36). -/
theorem CommandEnd.no_fault_before {i : Instr} {s t : State} (h : CommandEnd s i t) (ht : t.status.fault = false) :
    s.status.fault = false := by
  rw [← Bool.not_eq_true] at ht ⊢
  exact fun hs => ht (h.fault_sticky hs)

/-- COMPT, COMPP and COMPH one after the other end without a fault exactly when their computations do. -/
theorem staged_eq_iff {s t : State} (hloaded : s.status.loaded = true) (ht : t.status.fault = false) :
    sampleCommand true false comphBody (sampleCommand true false comppBody (sampleCommand false false comptBody s)) = t ↔
      ∃ s₁ s₂, comptBody s = some s₁ ∧ comppBody s₁ = some s₂ ∧ comphBody s₂ = some t := by
  constructor
  · rintro rfl
    have hcompp := (exec_end (i := .comph false) rfl).no_fault_before ht
    have hcompt := (exec_end (i := .compp false) rfl).no_fault_before hcompp
    exact ⟨_, _, body_of_no_fault hcompt, body_of_no_fault hcompp, body_of_no_fault ht⟩
  · rintro ⟨s₁, s₂, hcompt, hcompp, hcomph⟩
    rw [sampleCommand_of_body (n := false) hloaded nofun hcompt]
    obtain ⟨tf, tv, -, -, rfl⟩ := comptBody_some hcompt
    rw [sampleCommand_of_body (s := writeTemperature tf tv s) hloaded (fun _ => rfl) hcompp]
    obtain ⟨r, -, rfl⟩ := comppBody_some hcompp
    exact sampleCommand_of_body (s := writePressure r.1 r.2 _) hloaded (fun _ => rfl) hcomph

/-- A run over STAGE (R79) is the three commands one after the other. -/
theorem run_stage (s : State) (rest : List HostAction) :
    Sys2Proof.core.run 3 (s.withHost (AsmLine.stage.actions ++ rest)) =
      .next (sampleCommand true false comphBody (sampleCommand true false comppBody
        (sampleCommand false false comptBody (s.withHost rest)))) := by
  have hcompt (u : State) : afterWord u (encode (.compt false)) = sampleCommand false false comptBody u :=
    afterWord_of_exec (decode_encode _) rfl
  have hcompp (u : State) : afterWord u (encode (.compp false)) = sampleCommand true false comppBody u :=
    afterWord_of_exec (decode_encode _) rfl
  have hcomph (u : State) : afterWord u (encode (.comph false)) = sampleCommand true false comphBody u :=
    afterWord_of_exec (decode_encode _) rfl
  have hfold : [encode (.compt false), encode (.compp false), encode (.comph false)].foldl afterWord
      (s.withHost rest) = sampleCommand true false comphBody (sampleCommand true false comppBody
        (sampleCommand false false comptBody (s.withHost rest))) := by
    rw [List.foldl_cons, List.foldl_cons, List.foldl_cons, List.foldl_nil, hcompt, hcompp, hcomph]
  exact (run_words _ s rest).trans (congrArg Host.Outcome.next hfold)

/-- Settles O22: both ways end without a fault exactly when the three computations have results, and then in the writes
of all three. -/
theorem convEqualsStagedSequence : Obligations.ConvEqualsStagedSequence := by
  intro s t rest hloaded _ ht
  have hconv : exec (.conv false) (s.withHost rest) = .next t ↔ convBody (s.withHost rest) = some t := by
    constructor
    · intro h
      obtain rfl : sampleCommand false false convBody (s.withHost rest) = t := by cases h; rfl
      exact body_of_no_fault ht
    · exact fun h => congrArg Host.Outcome.next (sampleCommand_of_body hloaded nofun h)
  refine hconv.trans (convBody_eq_some_iff_staged.trans ((staged_eq_iff (s := s.withHost rest) hloaded ht).symm.trans ?_))
  constructor
  · intro h
    exact (run_stage s rest).trans (congrArg Host.Outcome.next h)
  · intro h
    exact Host.Outcome.next.inj ((run_stage s rest).symm.trans h)

/-! ### The two values of OVF -/

/-- The state on a machine with `OVF` = wrap. -/
def State.withWrap (s : State) : State := { s with params := { s.params with ovf := .wrap } }

@[simp] theorem State.withWrap_x (s : State) : s.withWrap.x = s.x := by
  funext r
  cases r <;> rfl

/-- The decoder of LOAD does not look at `OVF` (R101 to R108). -/
theorem loadAll_withWrap (s : State) : loadAll s.withWrap = (loadAll s).withWrap := by
  have hvalue : loadedValue s.withWrap.params s.withWrap.coefPort = loadedValue s.params s.coefPort := by
    funext r
    cases r <;> rfl
  rw [loadAll_eq, hvalue]
  rfl

/-- Past its checks a sample command that ends without a fault ends alike on the wrap machine, when its computation does. -/
theorem sampleCommand_withWrap {n r : Bool} {body : State → Option State} {s : State}
    (hbody : ∀ u, body s = some u → body s.withWrap = some u.withWrap)
    (ht : (sampleCommand n r body s).status.fault = false) :
    sampleCommand n r body s.withWrap = (sampleCommand n r body s).withWrap := by
  by_cases hloaded : s.status.loaded = true
  · by_cases htfv : n = true → s.status.tfv = true
    · cases r with
      | true => rw [sampleCommand_readFailure hloaded htfv, sampleCommand_readFailure (s := s.withWrap) hloaded htfv]; rfl
      | false => exact sampleCommand_of_body (s := s.withWrap) hloaded htfv (hbody _ (body_of_no_fault ht))
    · obtain ⟨rfl, htfine⟩ : n = true ∧ s.status.tfv = false := by simpa using htfv
      rw [sampleCommand_tfineInvalid hloaded htfine] at ht
      cases ht
  · rw [sampleCommand_notLoaded (by simpa using hloaded)] at ht
    cases ht

/-- What COMPT computes the wrap machine computes too (R140). -/
theorem comptBody_withWrap {s u : State} (h : comptBody s = some u) : comptBody s.withWrap = some u.withWrap := by
  obtain ⟨tf, tv, htf, htv, rfl⟩ := comptBody_some h
  refine comptBody_of ?_ (tempOut_refines _ _ tv htv)
  rw [State.withWrap_x]
  exact fineTemp_refines _ _ _ tf htf

/-- What COMPP computes the wrap machine computes too (R140). -/
theorem comppBody_withWrap {s u : State} (h : comppBody s = some u) : comppBody s.withWrap = some u.withWrap := by
  obtain ⟨r, hr, rfl⟩ := comppBody_some h
  refine comppBody_of (s := s.withWrap) ?_
  rw [State.withWrap_x]
  exact pressure_refines _ _ _ _ r hr

/-- What COMPH computes the wrap machine computes too (R140). -/
theorem comphBody_withWrap {s u : State} (h : comphBody s = some u) : comphBody s.withWrap = some u.withWrap := by
  obtain ⟨r, hr, rfl⟩ := comphBody_some h
  refine comphBody_of (s := s.withWrap) ?_
  rw [State.withWrap_x]
  exact humidity_refines _ _ _ _ r hr

/-- What CONV computes the wrap machine computes too (R140). -/
theorem convBody_withWrap {s u : State} (h : convBody s = some u) : convBody s.withWrap = some u.withWrap := by
  obtain ⟨s₁, s₂, hcompt, hcompp, hcomph⟩ := convBody_eq_some_iff_staged.1 h
  exact convBody_eq_some_iff_staged.2
    ⟨_, _, comptBody_withWrap hcompt, comppBody_withWrap hcompp, comphBody_withWrap hcomph⟩

/-- A command that ends without a fault ends alike on the wrap machine: the checks do not look at `OVF`, and what the
computations give they give there too. -/
theorem exec_withWrap {i : Instr} {s t : State} (ht : t.status.fault = false) (h : exec i s = .next t) :
    exec i s.withWrap = .next t.withWrap := by
  cases i with
  | nop => cases h; rfl
  | clrerr => cases h; rfl
  | unload => cases h; rfl
  | load tperr hxerr h1err =>
    obtain ⟨rfl, hload⟩ | ⟨rfl, hhum, hload⟩ | ⟨rfl, rfl, rfl, hload⟩ := execLoad_cases tperr hxerr h1err s
    · cases hload.symm.trans h; rfl
    · cases hload.symm.trans h; exact execLoad_of_humidityErr hhum s.withWrap
    · cases hload.symm.trans h; exact congrArg Host.Outcome.next (loadAll_withWrap s)
  | compt rderr => cases h; exact congrArg Host.Outcome.next (sampleCommand_withWrap (fun _ => comptBody_withWrap) ht)
  | compp rderr => cases h; exact congrArg Host.Outcome.next (sampleCommand_withWrap (fun _ => comppBody_withWrap) ht)
  | comph rderr => cases h; exact congrArg Host.Outcome.next (sampleCommand_withWrap (fun _ => comphBody_withWrap) ht)
  | conv rderr => cases h; exact congrArg Host.Outcome.next (sampleCommand_withWrap (fun _ => convBody_withWrap) ht)

/-- Settles O27: `exec_withWrap`, and a command keeps the other parameters. -/
theorem faultMachineRefinesWrapMachine : Obligations.FaultMachineRefinesWrapMachine := by
  intro i s t _ _ ht h
  have hstate : { t with params := { s.params with ovf := .wrap } } = t.withWrap := by
    rw [← (exec_end h).frame.1]
    rfl
  rw [hstate]
  exact exec_withWrap ht h

end Sys2Proof.Machine
end

section
/-! Noninterference: a relation between two states goes through a sample command when its writes keep it, with O16 (the
sample bytes of the other quantities), O41 (STATUS), O42 (everything but the inputs) and O49 (registers without a value)
from that. -/

namespace Sys2Proof.Machine

open Sys2Proof.Claims

/-! ### Two states under one sample command -/

/-- A first operation both sequences share keeps the relation of what follows. -/
theorem rel_bind_same {α β : Type} {R : β → β → Prop} {a : Option α} {f g : α → Option β}
    (h : ∀ v, Option.Rel R (f v) (g v)) : Option.Rel R (a >>= f) (a >>= g) := by
  cases a with
  | none => exact .none
  | some v => exact h v

/-- Related results stay related when a related default stands in for none. -/
theorem rel_getD {α : Type} {R : α → α → Prop} {a b : Option α} {d d' : α} (h : Option.Rel R a b) (hd : R d d') :
    R (a.getD d) (b.getD d') := by
  cases h with
  | none => exact hd
  | some h => exact h

/-- A sample command relates its ends when the fault action, the reported error and its computation do. -/
theorem sampleCommand_rel {n r : Bool} {body : State → Option State} {s s' : State} {R : State → State → Prop}
    (hloaded : s'.status.loaded = s.status.loaded) (htfv : s'.status.tfv = s.status.tfv)
    (hfault : ∀ e, R (raiseFault e s) (raiseFault e s'))
    (herror : r = true → R (reportError .genericBusReadFailure s) (reportError .genericBusReadFailure s'))
    (hbody : s.status.loaded = true → (n = true → s.status.tfv = true) → Option.Rel R (body s) (body s')) :
    R (sampleCommand n r body s) (sampleCommand n r body s') := by
  by_cases hl : s.status.loaded = true
  · have hl' := hloaded.trans hl
    by_cases ht : n = true → s.status.tfv = true
    · have ht' : n = true → s'.status.tfv = true := fun hn => htfv.trans (ht hn)
      cases r with
      | true =>
        rw [sampleCommand_readFailure hl ht, sampleCommand_readFailure hl' ht']
        exact herror rfl
      | false =>
        rw [sampleCommand_body hl ht, sampleCommand_body hl' ht']
        exact rel_getD (hbody hl ht) (hfault _)
    · obtain ⟨rfl, htfine⟩ : n = true ∧ s.status.tfv = false := by simpa using ht
      rw [sampleCommand_tfineInvalid hl htfine, sampleCommand_tfineInvalid hl' (htfv.trans htfine)]
      exact hfault _
  · have hl : s.status.loaded = false := by simpa using hl
    rw [sampleCommand_notLoaded hl, sampleCommand_notLoaded (hloaded.trans hl)]
    exact hfault _

section

variable {s s' : State} {R : State → State → Prop}

/-- COMPT's computation reads the parameters, the coefficients and adc_T. -/
theorem comptBody_rel (hparams : s'.params = s.params) (hx : s'.x = s.x)
    (hadc : (rawSample s'.samplePort).adcT = (rawSample s.samplePort).adcT)
    (hwrite : ∀ tf tv, R (writeTemperature tf tv s) (writeTemperature tf tv s')) :
    Option.Rel R (comptBody s) (comptBody s') := by
  simp only [comptBody, hparams, hx, hadc]
  exact rel_bind_same fun tf => rel_bind_same fun tv => .some (hwrite tf tv)

/-- COMPP's computation reads the parameters, the coefficients, adc_P and TFINE. -/
theorem comppBody_rel (hparams : s'.params = s.params) (hx : s'.x = s.x)
    (hadc : (rawSample s'.samplePort).adcP = (rawSample s.samplePort).adcP) (htfine : s'.tfine = s.tfine)
    (hwrite : ∀ p g, R (writePressure p g s) (writePressure p g s')) :
    Option.Rel R (comppBody s) (comppBody s') := by
  simp only [comppBody, State.outValue, hparams, hx, hadc, htfine]
  exact rel_bind_same fun r => .some (hwrite r.1 r.2)

/-- COMPH's computation reads the parameters, the coefficients, adc_H and TFINE. -/
theorem comphBody_rel (hparams : s'.params = s.params) (hx : s'.x = s.x)
    (hadc : (rawSample s'.samplePort).adcH = (rawSample s.samplePort).adcH) (htfine : s'.tfine = s.tfine)
    (hwrite : ∀ h, R (writeHumidity h s) (writeHumidity h s')) :
    Option.Rel R (comphBody s) (comphBody s') := by
  simp only [comphBody, State.outValue, hparams, hx, hadc, htfine]
  exact rel_bind_same fun h => .some (hwrite h)

/-- CONV's computation reads the parameters, the coefficients and the sample. -/
theorem convBody_rel (hparams : s'.params = s.params) (hx : s'.x = s.x)
    (hraw : rawSample s'.samplePort = rawSample s.samplePort)
    (hwrite : ∀ tf tv p g h, R (writeHumidity h (writePressure p g (writeTemperature tf tv s)))
      (writeHumidity h (writePressure p g (writeTemperature tf tv s')))) :
    Option.Rel R (convBody s) (convBody s') := by
  simp only [convBody, hparams, hx, hraw]
  exact rel_bind_same fun tf => rel_bind_same fun tv => rel_bind_same fun r => rel_bind_same fun h =>
    .some (hwrite tf tv r.1 r.2 h)

end

/-! ### The sample image -/

/-- adc_T is formed from bytes 3 to 5 (R115). -/
theorem rawSample_adcT_congr {img img' : SampleImage} (h : ∀ k, 3 ≤ k → k ≤ 5 → imageByte img k = imageByte img' k) :
    (rawSample img).adcT = (rawSample img').adcT := by
  simp only [rawSample, memReadBE_three, Nat.reduceAdd, h 3 (by decide) (by decide), h 4 (by decide) (by decide),
    h 5 (by decide) (by decide)]

/-- adc_P is formed from bytes 0 to 2 (R115). -/
theorem rawSample_adcP_congr {img img' : SampleImage} (h : ∀ k, k ≤ 2 → imageByte img k = imageByte img' k) :
    (rawSample img).adcP = (rawSample img').adcP := by
  simp only [rawSample, memReadBE_three, Nat.reduceAdd, h 0 (by decide), h 1 (by decide), h 2 (by decide)]

/-- adc_H is formed from bytes 6 and 7 (R115). -/
theorem rawSample_adcH_congr {img img' : SampleImage} (h : ∀ k, 6 ≤ k → k ≤ 7 → imageByte img k = imageByte img' k) :
    (rawSample img).adcH = (rawSample img').adcH := by
  simp only [rawSample, memReadBE_two, Nat.reduceAdd, h 6 (by decide) (by decide), h 7 (by decide) (by decide)]

/-- A sample command whose computation ends alike on another sample image does so too. -/
theorem sampleCommand_withSamplePort {n r : Bool} {body : State → Option State} {s : State} {img : SampleImage}
    (hbody : Option.Rel (fun t t' => t' = t.withSamplePort img) (body s) (body (s.withSamplePort img))) :
    sampleCommand n r body (s.withSamplePort img) = (sampleCommand n r body s).withSamplePort img :=
  sampleCommand_rel (R := fun t t' => t' = t.withSamplePort img) rfl rfl (fun _ => rfl) (fun _ => rfl)
    fun _ _ => hbody

/-- Settles O16: the field of R115 a staged command reads is the same in both images. -/
theorem stagedCommandsIgnoreOtherSampleBytes : Obligations.StagedCommandsIgnoreOtherSampleBytes := by
  intro s img rderr
  refine ⟨fun h => ⟨_, rfl, ?_⟩, fun h => ⟨_, rfl, ?_⟩, fun h => ⟨_, rfl, ?_⟩⟩
  · exact congrArg Host.Outcome.next (sampleCommand_withSamplePort (n := false) (r := rderr)
      (comptBody_rel (s := s) rfl rfl (rawSample_adcT_congr h) fun _ _ => rfl))
  · exact congrArg Host.Outcome.next (sampleCommand_withSamplePort (n := true) (r := rderr)
      (comppBody_rel (s := s) rfl rfl (rawSample_adcP_congr h) rfl fun _ _ => rfl))
  · exact congrArg Host.Outcome.next (sampleCommand_withSamplePort (n := true) (r := rderr)
      (comphBody_rel (s := s) rfl rfl (rawSample_adcH_congr h) rfl fun _ => rfl))

/-! ### STATUS -/

/-- Two states that differ in STATUS at most and agree on LOADED and TFV. -/
def SameButStatus (t t' : State) : Prop :=
  ∃ st, t' = t.withStatus st ∧ st.loaded = t.status.loaded ∧ st.tfv = t.status.tfv

/-- Every command keeps the relation: of STATUS it reads LOADED and TFV alone (R38). -/
theorem exec_sameButStatus (i : Instr) {s : State} {st : Status} (hloaded : st.loaded = s.status.loaded)
    (htfv : st.tfv = s.status.tfv) :
    ∃ t t', exec i s = .next t ∧ exec i (s.withStatus st) = .next t' ∧ SameButStatus t t' := by
  cases i with
  | nop => exact ⟨_, _, rfl, rfl, _, rfl, hloaded, htfv⟩
  | clrerr => exact ⟨_, _, rfl, rfl, _, rfl, hloaded, htfv⟩
  | unload => exact ⟨_, _, rfl, rfl, _, rfl, rfl, rfl⟩
  | load a b c => cases a <;> cases b <;> cases c <;> exact ⟨_, _, rfl, rfl, _, rfl, rfl, rfl⟩
  | compt rderr =>
    exact ⟨_, _, rfl, rfl, sampleCommand_rel hloaded htfv (fun _ => ⟨_, rfl, hloaded, htfv⟩)
      (fun _ => ⟨_, rfl, hloaded, htfv⟩) fun _ _ => comptBody_rel rfl rfl rfl fun _ _ => ⟨_, rfl, hloaded, rfl⟩⟩
  | compp rderr =>
    exact ⟨_, _, rfl, rfl, sampleCommand_rel hloaded htfv (fun _ => ⟨_, rfl, hloaded, htfv⟩)
      (fun _ => ⟨_, rfl, hloaded, htfv⟩) fun _ _ => comppBody_rel rfl rfl rfl rfl fun _ _ => ⟨_, rfl, hloaded, htfv⟩⟩
  | comph rderr =>
    exact ⟨_, _, rfl, rfl, sampleCommand_rel hloaded htfv (fun _ => ⟨_, rfl, hloaded, htfv⟩)
      (fun _ => ⟨_, rfl, hloaded, htfv⟩) fun _ _ => comphBody_rel rfl rfl rfl rfl fun _ => ⟨_, rfl, hloaded, htfv⟩⟩
  | conv rderr =>
    exact ⟨_, _, rfl, rfl, sampleCommand_rel hloaded htfv (fun _ => ⟨_, rfl, hloaded, htfv⟩)
      (fun _ => ⟨_, rfl, hloaded, htfv⟩) fun _ _ => convBody_rel rfl rfl rfl fun _ _ _ _ _ => ⟨_, rfl, hloaded, rfl⟩⟩

/-- Settles O41: the two ends of a command differ in STATUS at most, and agree on LOADED and TFV. -/
theorem commandsReadOnlyLoadedAndTfv : Obligations.CommandsReadOnlyLoadedAndTfv := by
  intro i s st hloaded htfv
  obtain ⟨t, _, ht, ht', st', rfl, hloaded', htfv'⟩ := exec_sameButStatus i hloaded htfv
  exact ⟨t, st', ht, ht', hloaded', htfv'⟩

/-! ### The results of CONV -/

/-- Both states faulted, or neither and with the same results of a conversion. -/
def SameResults (t t' : State) : Prop :=
  t.status.fault = t'.status.fault ∧
  (t.status.fault = false → t.tfine = t'.tfine ∧ t.tOut = t'.tOut ∧ t.pOut = t'.pOut ∧ t.hOut = t'.hOut ∧
    t.status.pz = t'.status.pz ∧ t.status.hlo = t'.status.hlo ∧ t.status.hhi = t'.status.hhi)

/-- Settles O42: CONV reads its inputs alone, and its writes cover all results. -/
theorem conversionDependsOnInputsOnly : Obligations.ConversionDependsOnInputsOnly := by
  intro s s' t t' hparams hcoef hsample hloaded hloaded' hs hs' h h'
  obtain rfl : sampleCommand false false convBody s = t := Host.Outcome.next.inj h
  obtain rfl : sampleCommand false false convBody s' = t' := Host.Outcome.next.inj h'
  have hx : s'.x = s.x := by funext r; rw [State.x, State.x, hcoef, hparams]
  have hbody : Option.Rel SameResults (convBody s) (convBody s') :=
    convBody_rel hparams.symm hx (by rw [hsample]) fun _ _ _ _ _ =>
      ⟨hs.trans hs'.symm, fun _ => ⟨rfl, rfl, rfl, rfl, rfl, rfl, rfl⟩⟩
  rw [sampleCommand_body (n := false) hloaded nofun, sampleCommand_body (n := false) hloaded' nofun]
  exact rel_getD hbody ⟨rfl, nofun⟩

/-! ### Registers that hold no value -/

/-- A write of STATUS that sets no valid bit keeps two states visibly the same. -/
theorem SameVisible.mapStatus {s s' : State} (h : SameVisible s s') (f : Status → Status)
    (hloaded : (f s.status).loaded = true → s.status.loaded = true)
    (htfv : (f s.status).tfv = true → s.status.tfv = true)
    (htv : (f s.status).tv = s.status.tv) (hpv : (f s.status).pv = s.status.pv)
    (hhv : (f s.status).hv = s.status.hv) :
    SameVisible (s.withStatus (f s.status)) (s'.withStatus (f s'.status)) := by
  obtain ⟨hparams, hstatus, hcoefPort, hsamplePort, hhost, hcoef, htfine, htOut, hpOut, hhOut⟩ := h
  exact ⟨hparams, congrArg f hstatus, hcoefPort, hsamplePort, hhost, fun hv => hcoef (hloaded hv),
    fun hv => htfine (htfv hv), fun hv => htOut (htv.symm.trans hv), fun hv => hpOut (hpv.symm.trans hv),
    fun hv => hhOut (hhv.symm.trans hv)⟩

theorem SameVisible.raiseFault {s s' : State} (h : SameVisible s s') (e : ErrorName) :
    SameVisible (Machine.raiseFault e s) (Machine.raiseFault e s') :=
  SameVisible.mapStatus h (·.faulted e.code) id id rfl rfl rfl

theorem SameVisible.reportError {s s' : State} (h : SameVisible s s') (e : ErrorName) :
    SameVisible (Machine.reportError e s) (Machine.reportError e s') :=
  SameVisible.mapStatus h (·.errored e.code) id id rfl rfl rfl

theorem SameVisible.withErrCleared {s s' : State} (h : SameVisible s s') :
    SameVisible s.withErrCleared s'.withErrCleared :=
  SameVisible.mapStatus h (·.errCleared) id id rfl rfl rfl

theorem SameVisible.invalidateCoef {s s' : State} (h : SameVisible s s') :
    SameVisible (Machine.invalidateCoef s) (Machine.invalidateCoef s') :=
  SameVisible.mapStatus h (·.coefInvalidated) nofun nofun rfl rfl rfl

/-- LOAD replaces all coefficients from the port, whatever they were (R23). -/
theorem SameVisible.loadAll {s s' : State} (h : SameVisible s s') :
    SameVisible (Machine.loadAll s) (Machine.loadAll s') := by
  obtain ⟨hparams, hstatus, hcoefPort, hsamplePort, hhost, -, -, htOut, hpOut, hhOut⟩ := h
  have hloaded : (Machine.loadAll s).coef = (Machine.loadAll s').coef := by
    rw [loadAll_eq, loadAll_eq, hparams, hcoefPort]
  exact ⟨hparams, congrArg Status.coefLoaded hstatus, hcoefPort, hsamplePort, hhost, fun _ => hloaded, nofun, htOut,
    hpOut, hhOut⟩

theorem SameVisible.writeTemperature {s s' : State} (h : SameVisible s s') (tf tv : Int) :
    SameVisible (Machine.writeTemperature tf tv s) (Machine.writeTemperature tf tv s') := by
  obtain ⟨hparams, hstatus, hcoefPort, hsamplePort, hhost, hcoef, -, -, hpOut, hhOut⟩ := h
  exact ⟨hparams, congrArg Status.temperatureDone hstatus, hcoefPort, hsamplePort, hhost, hcoef, fun _ => rfl,
    fun _ => rfl, hpOut, hhOut⟩

theorem SameVisible.writePressure {s s' : State} (h : SameVisible s s') (p : Int) (g : Bool) :
    SameVisible (Machine.writePressure p g s) (Machine.writePressure p g s') := by
  obtain ⟨hparams, hstatus, hcoefPort, hsamplePort, hhost, hcoef, htfine, htOut, -, hhOut⟩ := h
  exact ⟨hparams, congrArg (Status.pressureDone g) hstatus, hcoefPort, hsamplePort, hhost, hcoef, htfine, htOut,
    fun _ => rfl, hhOut⟩

theorem SameVisible.writeHumidity {s s' : State} (h : SameVisible s s') (r : HumidityResult) :
    SameVisible (Machine.writeHumidity r s) (Machine.writeHumidity r s') := by
  obtain ⟨hparams, hstatus, hcoefPort, hsamplePort, hhost, hcoef, htfine, htOut, hpOut, -⟩ := h
  exact ⟨hparams, congrArg (Status.humidityDone r.lo r.hi) hstatus, hcoefPort, hsamplePort, hhost, hcoef, htfine,
    htOut, hpOut, fun _ => rfl⟩

/-- Reset leaves no trace of what the registers held (R230). -/
theorem SameVisible.resetInput {s s' : State} (h : SameVisible s s') :
    SameVisible (Machine.resetInput s) (Machine.resetInput s') := by
  obtain ⟨hparams, -, hcoefPort, hsamplePort, hhost, -, -, -, -, -⟩ := h
  exact ⟨hparams, rfl, hcoefPort, hsamplePort, hhost, fun _ => rfl, fun _ => rfl, fun _ => rfl, fun _ => rfl,
    fun _ => rfl⟩

theorem SameVisible.withCoefPort {s s' : State} (h : SameVisible s s') (img : CoefImage) :
    SameVisible (s.withCoefPort img) (s'.withCoefPort img) := by
  obtain ⟨hparams, hstatus, -, hsamplePort, hhost, hregs⟩ := h
  exact ⟨hparams, hstatus, rfl, hsamplePort, hhost, hregs⟩

theorem SameVisible.withSamplePort {s s' : State} (h : SameVisible s s') (img : SampleImage) :
    SameVisible (s.withSamplePort img) (s'.withSamplePort img) := by
  obtain ⟨hparams, hstatus, hcoefPort, -, hhost, hregs⟩ := h
  exact ⟨hparams, hstatus, hcoefPort, rfl, hhost, hregs⟩

theorem SameVisible.withHost {s s' : State} (h : SameVisible s s') (acts : List HostAction) :
    SameVisible (s.withHost acts) (s'.withHost acts) := by
  obtain ⟨hparams, hstatus, hcoefPort, hsamplePort, -, hregs⟩ := h
  exact ⟨hparams, hstatus, hcoefPort, hsamplePort, rfl, hregs⟩

/-- A sample command reads the coefficients behind LOADED, and TFINE behind TFV (R202, R203). -/
theorem SameVisible.sampleCommand {n r : Bool} {body : State → Option State} {s s' : State} (h : SameVisible s s')
    (hbody : s'.x = s.x → (n = true → s'.tfine = s.tfine) → Option.Rel SameVisible (body s) (body s')) :
    SameVisible (Machine.sampleCommand n r body s) (Machine.sampleCommand n r body s') := by
  obtain ⟨hparams, hstatus, -, -, -, hcoef, htfine, -⟩ := id h
  refine sampleCommand_rel (by rw [hstatus]) (by rw [hstatus]) (SameVisible.raiseFault h)
    (fun _ => SameVisible.reportError h _) fun hloaded htfv => hbody ?_ fun hn => (htfine (htfv hn)).symm
  funext r
  rw [State.x, State.x, hcoef hloaded, hparams]

/-- A command keeps two states visibly the same. -/
theorem exec_sameVisible (i : Instr) {s s' : State} (h : SameVisible s s') :
    ∃ t t', exec i s = .next t ∧ exec i s' = .next t' ∧ SameVisible t t' := by
  obtain ⟨hparams, -, -, hsample, -⟩ := id h
  have hraw : rawSample s'.samplePort = rawSample s.samplePort := by rw [hsample]
  cases i with
  | nop => exact ⟨_, _, rfl, rfl, h⟩
  | clrerr => exact ⟨_, _, rfl, rfl, SameVisible.withErrCleared h⟩
  | unload => exact ⟨_, _, rfl, rfl, SameVisible.invalidateCoef h⟩
  | load tperr hxerr h1err =>
    obtain ⟨rfl, -⟩ | ⟨rfl, hhum, -⟩ | ⟨rfl, rfl, rfl, -⟩ := execLoad_cases tperr hxerr h1err s
    · exact ⟨_, _, rfl, rfl, SameVisible.reportError (SameVisible.invalidateCoef h) _⟩
    · exact ⟨_, _, execLoad_of_humidityErr hhum s, execLoad_of_humidityErr hhum s',
        SameVisible.reportError (SameVisible.invalidateCoef h) _⟩
    · exact ⟨_, _, rfl, rfl, SameVisible.loadAll h⟩
  | compt rderr =>
    exact ⟨_, _, rfl, rfl, SameVisible.sampleCommand h fun hx _ =>
      comptBody_rel hparams.symm hx (by rw [hraw]) fun _ _ => SameVisible.writeTemperature h _ _⟩
  | compp rderr =>
    exact ⟨_, _, rfl, rfl, SameVisible.sampleCommand h fun hx htfine =>
      comppBody_rel hparams.symm hx (by rw [hraw]) (htfine rfl) fun _ _ => SameVisible.writePressure h _ _⟩
  | comph rderr =>
    exact ⟨_, _, rfl, rfl, SameVisible.sampleCommand h fun hx htfine =>
      comphBody_rel hparams.symm hx (by rw [hraw]) (htfine rfl) fun _ => SameVisible.writeHumidity h _⟩
  | conv rderr =>
    exact ⟨_, _, rfl, rfl, SameVisible.sampleCommand h fun hx _ =>
      convBody_rel hparams.symm hx hraw fun _ _ _ _ _ => SameVisible.writeHumidity
        (SameVisible.writePressure (SameVisible.writeTemperature h _ _) _ _) _⟩

/-- The same ports have a value, and the same one (R24, R28). -/
theorem readPort_sameVisible {s s' : State} (h : SameVisible s s') (p : ReadPort) :
    s'.hasValue p = s.hasValue p ∧ (s.hasValue p = true → s'.portValue p = s.portValue p) := by
  obtain ⟨hparams, hstatus, -, -, -, hcoef, htfine, htOut, hpOut, hhOut⟩ := h
  cases p with
  | status => exact ⟨rfl, fun _ => by rw [State.portValue, State.portValue, hstatus]⟩
  | coef r =>
    refine ⟨congrArg Status.loaded hstatus.symm, fun hv => ?_⟩
    rw [State.portValue, State.portValue, State.x, State.x, hcoef hv, hparams]
  | out r =>
    refine ⟨congrArg (Status.outValid · r) hstatus.symm, fun hv => ?_⟩
    rw [State.portValue, State.portValue]
    cases r with
    | tfine => rw [State.outValue, State.outValue, htfine hv]
    | tOut => rw [State.outValue, State.outValue, htOut hv]
    | pOut => rw [State.outValue, State.outValue, hpOut hv]
    | hOut => rw [State.outValue, State.outValue, hhOut hv]

/-- The observation of R241 shows values alone. -/
theorem observe_sameVisible {s s' : State} (h : SameVisible s s') : observe s = observe s' := by
  have hports : s'.hasValue = s.hasValue := funext fun p => (readPort_sameVisible h p).1
  rw [observe, observe, hports]
  refine List.map_congr_left fun p hp => ?_
  rw [(readPort_sameVisible h p).2 (List.mem_filter.1 hp).2]

/-- A host read returns in both states, or stops both runs with the same fault. -/
theorem runRead_sameVisible {s s' : State} (h : SameVisible s s') (p : ReadPort) :
    (runRead p s = .next s ∧ runRead p s' = .next s') ∨
      (runRead p s = .fault (.noValueRead p) ∧ runRead p s' = .fault (.noValueRead p)) := by
  obtain ⟨hport, -⟩ := readPort_sameVisible h p
  cases hv : s.hasValue p with
  | true => exact .inl (by simp [runRead, readPort, hv, hport])
  | false => exact .inr (by simp [runRead, readPort, hv, hport])

/-- A host action ends both runs with the same fault, or goes on in states that are visibly the same. -/
theorem hostAct_sameVisible (a : HostAction) {s s' : State} (h : SameVisible s s') :
    (∃ t t', hostAct a s = .next t ∧ hostAct a s' = .next t' ∧ SameVisible t t') ∨
      ∃ f, hostAct a s = .fault f ∧ hostAct a s' = .fault f := by
  cases a with
  | coefImage img => exact .inl ⟨_, _, rfl, rfl, SameVisible.withCoefPort h img⟩
  | sampleImage img => exact .inl ⟨_, _, rfl, rfl, SameVisible.withSamplePort h img⟩
  | command w =>
    cases hw : decode w with
    | illegal why =>
      exact .inl ⟨_, _, runWord_of_illegal hw s, runWord_of_illegal hw s', SameVisible.raiseFault h .illegal⟩
    | command i =>
      obtain ⟨t, t', ht, ht', hsame⟩ := exec_sameVisible i h
      exact .inl ⟨t, t', (runWord_of_decode hw s).trans ht, (runWord_of_decode hw s').trans ht', hsame⟩
  | read p =>
    obtain ⟨hnext, hnext'⟩ | ⟨hstop, hstop'⟩ := runRead_sameVisible h p
    · exact .inl ⟨s, s', hnext, hnext', h⟩
    · exact .inr ⟨_, hstop, hstop'⟩
  | reset => exact .inl ⟨_, _, rfl, rfl, SameVisible.resetInput h⟩

/-- So does a step. -/
theorem step_sameVisible {s s' : State} (h : SameVisible s s') :
    (∃ t t', step s = .next t ∧ step s' = .next t' ∧ SameVisible t t') ∨
      ∃ f, step s = .fault f ∧ step s' = .fault f := by
  obtain ⟨-, -, -, -, hhost, -⟩ := id h
  cases hacts : s.host with
  | nil => exact .inl ⟨s, s', step_nil hacts, step_nil (hhost.symm.trans hacts), h⟩
  | cons a rest =>
    rw [step_cons hacts, step_cons (hhost.symm.trans hacts)]
    exact hostAct_sameVisible a (SameVisible.withHost h rest)

/-- Settles O49: the observations are equal, and the outcomes of a step go together. -/
theorem hiddenContentsAreNeverObservable : Obligations.HiddenContentsAreNeverObservable := by
  intro s s' h
  refine ⟨observe_sameVisible h, fun t ht => ?_, fun f hf => ?_⟩
  · obtain ⟨u, t', hu, ht', hsame⟩ | ⟨f, hf, -⟩ := step_sameVisible h
    · cases hu.symm.trans ht
      exact ⟨t', ht', hsame⟩
    · cases hf.symm.trans ht
  · obtain ⟨u, t', hu, -⟩ | ⟨g, hg, hg'⟩ := step_sameVisible h
    · cases hu.symm.trans hf
    · cases hg.symm.trans hf
      exact hg'

end Sys2Proof.Machine
end

section
/-! The coefficient decoder and the bit-unpacker (41_loader_unpacker.md R101 to R109, R112 to R114) in the claims' words,
and O7, O9, O10 and O11 from them. -/

namespace Sys2Proof.Machine

open Sys2Proof.Claims

/-! ### The values of the registers -/

/-- An unsigned primary field is its word (R102). -/
theorem field16_u16_memRead {n : Nat} (img : BitVec n) (o : Nat) :
    field16 (memRead img o 2) .u16 = leWord img o := by
  rw [memRead_two, field16, leWord]

/-- A signed primary field is its word in two's complement (R102). -/
theorem field16_s16_memRead {n : Nat} (img : BitVec n) (o : Nat) :
    field16 (memRead img o 2) .s16 = signed16 (leWord img o) := by
  rw [memRead_two, field16, sext_16, signed16, leWord]

/-- H6 is a byte in two's complement (R108). -/
theorem sext_8_memRead {n : Nat} (img : BitVec n) (o : Nat) :
    sext 8 (memRead img o 1) = signed8 (imageByte img o) := by
  rw [memRead_one, sext_8, signed8]

/-- P1 has the kind `P1_SIGNED` gives it (R101). -/
theorem loadedValue_p1 (p : Params) (img : CoefImage) :
    loadedValue p img .p1 = if p.p1Signed then signed16 (leWord img 6) else (leWord img 6 : Int) := by
  rw [loadedValue, p1Kind]
  split
  · exact field16_s16_memRead img 6
  · exact field16_u16_memRead img 6

/-- The unpacker's formula for both values of `H45_SEXT` (R106). -/
theorem unpack12_eq (b : Bool) (hi lo : Nat) :
    unpack12 b hi lo = (if b then signed8 hi else (hi : Int)) * 16 + (lo : Int) := by
  cases b with
  | false => rfl
  | true => rw [unpack12, if_pos rfl, sext_8, if_pos rfl, signed8]

/-- H4 is unpacked from byte 28 and the low nibble of byte 29 (R106). -/
theorem loadedValue_h4 (p : Params) (img : CoefImage) :
    loadedValue p img .h4 = unpack12 p.h45Sext (imageByte img 28) (imageByte img 29 % 16) := by
  rw [loadedValue, memRead_one, memRead_one, lowNibble]

/-- H5 is unpacked from byte 30 and the high nibble of byte 29 (R107). -/
theorem loadedValue_h5 (p : Params) (img : CoefImage) :
    loadedValue p img .h5 = unpack12 p.h45Sext (imageByte img 30) (imageByte img 29 / 16) := by
  have hbyte := imageByte_lt img 29
  rw [loadedValue, memRead_one, memRead_one, highNibble, Nat.mod_eq_of_lt (by omega)]

/-- Settles O7: the registers hold what the decoder gives, and that is the integer their bytes stand for. -/
theorem loadDecodesEveryCoefficient : Obligations.LoadDecodesEveryCoefficient := by
  intro s
  refine ⟨_, congrArg Host.Outcome.next (loadAll_eq s), ?_⟩
  simp only [value_ofValues_loadedValue]
  exact ⟨field16_u16_memRead _ 0, field16_s16_memRead _ 2, field16_s16_memRead _ 4, loadedValue_p1 _ _,
    field16_s16_memRead _ 8, field16_s16_memRead _ 10, field16_s16_memRead _ 12, field16_s16_memRead _ 14,
    field16_s16_memRead _ 16, field16_s16_memRead _ 18, field16_s16_memRead _ 20, field16_s16_memRead _ 22,
    congrArg Nat.cast (memRead_one _ 24), field16_s16_memRead _ 25, congrArg Nat.cast (memRead_one _ 27),
    (loadedValue_h4 _ _).trans (unpack12_eq _ _ _), (loadedValue_h5 _ _).trans (unpack12_eq _ _ _),
    sext_8_memRead _ 31⟩

/-! ### The round trips -/

/-- A primary field modulo 2^16 is its word, whatever its kind (R102, R112). -/
theorem field16_emod {w : Nat} (hw : w < 65536) (k : FieldKind) : field16 w k % 65536 = w := by
  cases k with
  | u16 => rw [field16]; omega
  | s16 => rw [field16, sext_16]; split <;> omega

/-- The kinds of the 12 primary fields (R101). -/
def primaryKind (p : Params) : CoefReg → FieldKind
  | .t1 => .u16
  | .p1 => p1Kind p
  | _ => .s16

/-- Settles O9: each of the 12 registers is a primary field, and its word modulo 2^16 is its two bytes. -/
theorem primaryBlockRoundTrips : Obligations.PrimaryBlockRoundTrips := by
  intro s t h row hrow
  cases h
  have hfield : (loadAll s).x row.1 = field16 (memRead s.coefPort row.2 2) (primaryKind s.params row.1) := by
    rw [loadAll_x]
    simp only [List.mem_cons, List.not_mem_nil, or_false] at hrow
    obtain rfl | rfl | rfl | rfl | rfl | rfl | rfl | rfl | rfl | rfl | rfl | rfl := hrow <;> rfl
  have hlo := imageByte_lt s.coefPort row.2
  have hhi := imageByte_lt s.coefPort (row.2 + 1)
  have hmod : (loadAll s).x row.1 % 65536 = imageByte s.coefPort row.2 + 256 * imageByte s.coefPort (row.2 + 1) := by
    rw [hfield, field16_emod (memRead_two_lt _ _), memRead_two]
    push_cast
    rfl
  change (loadAll s).x row.1 % 65536 % 256 = _ ∧ (loadAll s).x row.1 % 65536 / 256 = _
  omega

/-- The unpacker modulo 2^12 is the two parts side by side, for both values of `H45_SEXT` (R113). -/
theorem unpack12_emod (b : Bool) {hi lo : Nat} (hhi : hi < 256) (hlo : lo < 16) :
    unpack12 b hi lo % 4096 = hi * 16 + lo := by
  rw [unpack12_eq]
  cases b with
  | false => rw [if_neg Bool.false_ne_true]; omega
  | true => rw [if_pos rfl, signed8]; split <;> omega

/-- Settles O10: both registers are the unpacker's formula on their bytes. -/
theorem unpackerKeepsEveryBit : Obligations.UnpackerKeepsEveryBit := by
  intro s t h
  obtain rfl : loadAll s = t := Host.Outcome.next.inj h
  have hbyte := imageByte_lt s.coefPort 29
  simp only [loadAll_x, loadedValue_h4, loadedValue_h5]
  refine ⟨fun hzext => ?_, fun hsext => ?_, unpack12_emod _ (imageByte_lt _ _) (by omega),
    unpack12_emod _ (imageByte_lt _ _) (by omega)⟩
  · simp only [unpack12_eq, hzext, Bool.false_eq_true, if_false, and_self]
  · simp only [unpack12_eq, hsext, if_true, and_self]

/-! ### Every bit of the image -/

/-- The first bit and the number of bits of each register's field in the coefficient image (20_memory.md R51, R101 to
R108): the 18 fields lie one behind the other. -/
def imageField : CoefReg → Nat × Nat
  | .t1 => (0, 16) | .t2 => (16, 16) | .t3 => (32, 16)
  | .p1 => (48, 16) | .p2 => (64, 16) | .p3 => (80, 16) | .p4 => (96, 16) | .p5 => (112, 16) | .p6 => (128, 16)
  | .p7 => (144, 16) | .p8 => (160, 16) | .p9 => (176, 16)
  | .h1 => (192, 8) | .h2 => (200, 16) | .h3 => (216, 8) | .h4 => (224, 12) | .h5 => (236, 12) | .h6 => (248, 8)

/-- The bits of a register's field. -/
def fieldBits (img : CoefImage) (r : CoefReg) : BitVec (imageField r).2 :=
  img.extractLsb' (imageField r).1 (imageField r).2

/-- The integer the bits of a register's field stand for. -/
def fieldValue (p : Params) : CoefReg → Nat → Int
  | .h1, v => (v : Int)
  | .h3, v => (v : Int)
  | .h4, v => unpack12 p.h45Sext (v % 256) (v / 256)
  | .h5, v => unpack12 p.h45Sext (v / 16) (v % 16)
  | .h6, v => sext 8 v
  | r, v => field16 v (primaryKind p r)

/-- An image byte as a digit of the image's number (R51). -/
theorem imageByte_eq_digit {n : Nat} (img : BitVec n) (k : Nat) :
    imageByte img k = img.toNat / 2 ^ (8 * k) % 256 := by
  rw [imageByte, BitVec.extractLsb'_toNat, Nat.shiftRight_eq_div_pow]

/-- A little-endian word is 16 bits of the image. -/
theorem memRead_two_eq_extract {n : Nat} (img : BitVec n) (o : Nat) :
    memRead img o 2 = (img.extractLsb' (8 * o) 16).toNat := by
  rw [memRead_two, imageByte_eq_digit, imageByte_eq_digit, BitVec.extractLsb'_toNat, Nat.shiftRight_eq_div_pow,
    Nat.mul_add, pow_add, ← Nat.div_div_eq_div_mul]
  omega

/-- A register's field as a part of the image's number. -/
theorem fieldBits_toNat (img : CoefImage) (r : CoefReg) :
    (fieldBits img r).toNat = img.toNat / 2 ^ (imageField r).1 % 2 ^ (imageField r).2 := by
  rw [fieldBits, BitVec.extractLsb'_toNat, Nat.shiftRight_eq_div_pow]

/-- H4's field: byte 28 below the low nibble of byte 29 (R106). -/
theorem fieldBits_h4 (img : CoefImage) :
    (fieldBits img .h4).toNat = imageByte img 28 + 256 * (imageByte img 29 % 16) := by
  have hfield : (fieldBits img .h4).toNat = img.toNat / 2 ^ (8 * 28) % 4096 := fieldBits_toNat img .h4
  rw [hfield, imageByte_eq_digit, imageByte_eq_digit, show 8 * 29 = 8 * 28 + 8 from rfl, pow_add,
    ← Nat.div_div_eq_div_mul]
  omega

/-- H5's field: the high nibble of byte 29 below byte 30 (R107). -/
theorem fieldBits_h5 (img : CoefImage) :
    (fieldBits img .h5).toNat = imageByte img 29 / 16 + 16 * imageByte img 30 := by
  have hfield : (fieldBits img .h5).toNat = img.toNat / 2 ^ (8 * 29 + 4) % 4096 := fieldBits_toNat img .h5
  rw [hfield, imageByte_eq_digit, imageByte_eq_digit, show 8 * 30 = 8 * 29 + 8 from rfl, pow_add, pow_add,
    ← Nat.div_div_eq_div_mul, ← Nat.div_div_eq_div_mul]
  omega

/-- The decoder reads a register from its field alone. -/
theorem loadedValue_eq_fieldValue (p : Params) (img : CoefImage) (r : CoefReg) :
    loadedValue p img r = fieldValue p r (fieldBits img r).toNat := by
  cases r with
  | h4 =>
    have hbyte := imageByte_lt img 28
    rw [loadedValue_h4, fieldValue, fieldBits_h4]
    congr 1 <;> omega
  | h5 =>
    have hbyte := imageByte_lt img 29
    rw [loadedValue_h5, fieldValue, fieldBits_h5]
    congr 1 <;> omega
  | h1 | h3 | h6 =>
    simp only [loadedValue, memRead_one]
    rfl
  | _ =>
    simp only [loadedValue, memRead_two_eq_extract]
    rfl

theorem sext_8_injOn {v w : Nat} (hv : v < 256) (hw : w < 256) (h : sext 8 v = sext 8 w) : v = w := by
  rw [sext_8, sext_8] at h
  split at h <;> split at h <;> omega

theorem field16_injOn {v w : Nat} (hv : v < 65536) (hw : w < 65536) {k : FieldKind} (h : field16 v k = field16 w k) :
    v = w := by
  have hmod := congrArg (· % 65536) h
  simp only [field16_emod hv, field16_emod hw] at hmod
  exact_mod_cast hmod

theorem unpack12_injOn {b : Bool} {hi lo hi' lo' : Nat} (hhi : hi < 256) (hlo : lo < 16) (hhi' : hi' < 256)
    (hlo' : lo' < 16) (h : unpack12 b hi lo = unpack12 b hi' lo') : hi = hi' ∧ lo = lo' := by
  have hmod := congrArg (· % 4096) h
  simp only [unpack12_emod b hhi hlo, unpack12_emod b hhi' hlo'] at hmod
  omega

/-- Different bits of a field stand for different integers. -/
theorem fieldValue_injOn {p : Params} {r : CoefReg} {v w : Nat} (hv : v < 2 ^ (imageField r).2)
    (hw : w < 2 ^ (imageField r).2) (h : fieldValue p r v = fieldValue p r w) : v = w := by
  cases r with
  | h1 | h3 => exact Int.ofNat.inj h
  | h6 => exact sext_8_injOn hv hw h
  | h4 =>
    change v < 4096 at hv
    change w < 4096 at hw
    obtain ⟨hhi, hlo⟩ := unpack12_injOn (by omega) (by omega) (by omega) (by omega) h
    omega
  | h5 =>
    change v < 4096 at hv
    change w < 4096 at hw
    obtain ⟨hhi, hlo⟩ := unpack12_injOn (by omega) (by omega) (by omega) (by omega) h
    omega
  | _ =>
    simp only [fieldValue] at h
    exact field16_injOn hv hw h

/-- Two images give a register different values exactly when its fields differ. -/
theorem loadedValue_ne_iff (p : Params) (img img' : CoefImage) (r : CoefReg) :
    loadedValue p img r ≠ loadedValue p img' r ↔ fieldBits img r ≠ fieldBits img' r := by
  rw [loadedValue_eq_fieldValue, loadedValue_eq_fieldValue, not_iff_not]
  constructor
  · exact fun h => BitVec.eq_of_toNat_eq (fieldValue_injOn (BitVec.isLt _) (BitVec.isLt _) h)
  · intro h
    rw [h]

/-- Whether bit k of the image lies in a register's field. -/
def InField (k : Nat) (r : CoefReg) : Prop := (imageField r).1 ≤ k ∧ k < (imageField r).1 + (imageField r).2

/-- Flipping a bit changes the fields it lies in. -/
theorem fieldBits_flip_ne_iff (img : CoefImage) {k : Nat} (hk : k < 256) (r : CoefReg) :
    fieldBits img r ≠ fieldBits (img ^^^ BitVec.twoPow 256 k) r ↔ InField k r := by
  constructor
  · intro hne
    by_contra hout
    refine hne (BitVec.eq_of_getLsbD_eq fun i hi => ?_)
    have hik : (imageField r).1 + i ≠ k := fun heq => hout ⟨by omega, by omega⟩
    simp only [fieldBits, BitVec.getLsbD_extractLsb', BitVec.getLsbD_xor, BitVec.getLsbD_twoPow, hik.symm, decide_false,
      Bool.and_false, Bool.xor_false]
  · rintro ⟨hle, hlt⟩ heq
    have hbit := congrArg (BitVec.getLsbD · (k - (imageField r).1)) heq
    have hin : k - (imageField r).1 < (imageField r).2 := by omega
    simp [fieldBits, hin, Nat.add_sub_of_le hle, hk] at hbit

/-- The 18 registers. -/
def coefRegs : List CoefReg :=
  [.t1, .t2, .t3, .p1, .p2, .p3, .p4, .p5, .p6, .p7, .p8, .p9, .h1, .h2, .h3, .h4, .h5, .h6]

theorem mem_coefRegs (r : CoefReg) : r ∈ coefRegs := by cases r <;> decide

/-- The fields cover the image, and no two of them overlap (R114). -/
theorem existsUnique_inField {k : Nat} (hk : k < 256) : ∃! r, InField k r := by
  have hnibbles : ∀ j < 64, ∃ r ∈ coefRegs, (imageField r).1 ≤ 4 * j ∧
      4 * j + 4 ≤ (imageField r).1 + (imageField r).2 := by decide
  have hdisjoint : ∀ r ∈ coefRegs, ∀ r' ∈ coefRegs, r = r' ∨ (imageField r).1 + (imageField r).2 ≤ (imageField r').1 ∨
      (imageField r').1 + (imageField r').2 ≤ (imageField r).1 := by decide
  obtain ⟨r, -, hle, hlt⟩ := hnibbles (k / 4) (by omega)
  refine ⟨r, ⟨by omega, by omega⟩, fun r' ⟨hle', hlt'⟩ => ?_⟩
  obtain heq | hbelow | hbelow := hdisjoint r' (mem_coefRegs r') r (mem_coefRegs r)
  · exact heq
  · omega
  · omega

/-- Settles O11: LOAD completes on every image, a register changes exactly when its field does, and one field holds the
flipped bit. -/
theorem everyImageBitReachesOneRegister : Obligations.EveryImageBitReachesOneRegister := by
  intro s k hk
  refine ⟨_, _, rfl, rfl, ?_⟩
  change ∃! r, (loadAll s).x r ≠ (loadAll (s.withCoefPort (s.coefPort ^^^ BitVec.twoPow 256 k))).x r
  have hchanged (r : CoefReg) :
      (loadAll s).x r ≠ (loadAll (s.withCoefPort (s.coefPort ^^^ BitVec.twoPow 256 k))).x r ↔ InField k r := by
    rw [loadAll_x, loadAll_x]
    exact (loadedValue_ne_iff _ _ _ r).trans (fieldBits_flip_ne_iff s.coefPort hk r)
  simp only [hchanged]
  exact existsUnique_inField hk

end Sys2Proof.Machine
end

section
/-! The two writings of the pipelines, for `OVF` = fault (42_compensation.md R140 to R151, log 12): the machine has a
result exactly when the exact result of every operation fits its width, and then the exact one. CONV from its pipelines,
for both values of `OVF`. Then O21, O24, O25, O26 and O56 from them. -/

namespace Sys2Proof.Machine

open Sys2Proof.Claims

/-! ### The operations -/

/-- With `OVF` = fault a 32-bit operation has its exact result when that fits, and none otherwise (R140). -/
theorem w32_fault_eq_some_iff {v r : Int} : w32 .fault v = some r ↔ fits 32 v ∧ v = r := by
  rw [w32, held_fault 32 (by decide)]
  split
  · next h => rw [Option.some.injEq, and_iff_right h]
  · next h => simp only [reduceCtorEq, h, false_and]

/-- With `OVF` = fault a 64-bit operation has its exact result when that fits, and none otherwise (R140). -/
theorem w64_fault_eq_some_iff {v r : Int} : w64 .fault v = some r ↔ fits 64 v ∧ v = r := by
  rw [w64, held_fault 64 (by decide)]
  split
  · next h => rw [Option.some.injEq, and_iff_right h]
  · next h => simp only [reduceCtorEq, h, false_and]

/-- A 32-bit operation in front of a sequence: it fits, and the sequence goes on from its exact result. -/
theorem w32_fault_bind_eq_some_iff {α : Type} {v : Int} {f : Int → Option α} {r : α} :
    (w32 .fault v >>= f) = some r ↔ fits 32 v ∧ f v = some r := by
  rw [Option.bind_eq_bind, Option.bind_eq_some_iff]
  simp only [w32_fault_eq_some_iff, and_assoc, exists_and_left, exists_eq_left']

/-- A 64-bit operation in front of a sequence: it fits, and the sequence goes on from its exact result. -/
theorem w64_fault_bind_eq_some_iff {α : Type} {v : Int} {f : Int → Option α} {r : α} :
    (w64 .fault v >>= f) = some r ↔ fits 64 v ∧ f v = some r := by
  rw [Option.bind_eq_bind, Option.bind_eq_some_iff]
  simp only [w64_fault_eq_some_iff, and_assoc, exists_and_left, exists_eq_left']

/-! ### The pipelines -/

/-- The fine temperature of the fault machine (R144). -/
theorem fineTemp_fault_iff {x : CoefReg → Int} {adcT tf : Int} :
    fineTemp .fault x adcT = some tf ↔ (∀ e ∈ fineTempSteps x adcT, fits 32 e) ∧ fineTempFormula id x adcT = tf := by
  simp only [fineTemp, fineTempSteps, fineTempFormula, id, w32_fault_bind_eq_some_iff, w32_fault_eq_some_iff,
    asr_eq_shr, shl, pow_one, List.forall_mem_cons, List.not_mem_nil,
    false_implies, implies_true, and_true, and_assoc]

/-- The temperature of the fault machine (R145). -/
theorem tempOut_fault_iff {tf tv : Int} :
    tempOut .fault tf = some tv ↔ (∀ e ∈ tempOutSteps tf, fits 32 e) ∧ tempOutFormula id tf = tv := by
  simp only [tempOut, tempOutSteps, tempOutFormula, id, w32_fault_bind_eq_some_iff, asr_eq_shr, Option.pure_def,
    Option.some.injEq, List.forall_mem_cons, List.not_mem_nil,
    false_implies, implies_true, and_true, and_assoc]

/-- The terms before the guard of the fault machine (R146). The machine squares v1 twice, the claims list it once. -/
theorem pressureTerms_fault_iff {x : CoefReg → Int} {tf : Int} {t : PressureTerms} :
    pressureTerms .fault x tf = some t ↔ (∀ e ∈ pressureTermsSteps x tf, fits 64 e) ∧
      { v2 := (pressureTermsFormula id x tf).1, denom := (pressureTermsFormula id x tf).2 } = t := by
  simp only [pressureTerms, pressureTermsSteps, pressureTermsFormula, id, w64_fault_bind_eq_some_iff, asr_eq_shr, shl,
    Int.reducePow, twoPow47, Option.pure_def, Option.some.injEq, List.forall_mem_cons,
    List.not_mem_nil, false_implies, implies_true, and_true, and_assoc]
  tauto

/-- The final p of the fault machine (R146), for whatever terms. -/
theorem pressureQuotient_fault_iff {x : CoefReg → Int} {adcP p : Int} {t : PressureTerms} :
    pressureQuotient .fault x adcP t = some p ↔
      (∀ e ∈ pressureQuotientSteps x adcP t.v2 t.denom, fits 64 e) ∧
      pressureQuotientFormula id x adcP t.v2 t.denom = p := by
  simp only [pressureQuotient, pressureQuotientSteps, pressureQuotientFormula, id, w64_fault_bind_eq_some_iff,
    w64_fault_eq_some_iff, asr_eq_shr, shl, tdiv, Int.reducePow, List.forall_mem_cons,
    List.not_mem_nil, false_implies, implies_true, and_true, and_assoc]

/-- P_OUT and the guard of the fault machine: no operation is performed after a guard that is taken (R147). -/
theorem pressure_fault_iff {x : CoefReg → Int} {adcP tf : Int} {r : Int × Bool} :
    pressure .fault x adcP tf = some r ↔ pressureFits x adcP tf ∧ pressureFormula id x adcP tf = r := by
  rw [pressure, Option.bind_eq_bind, Option.bind_eq_some_iff]
  simp only [pressureTerms_fault_iff, and_assoc, exists_and_left, exists_eq_left', pressureFits]
  refine and_congr_right fun _ => ?_
  by_cases hden : (pressureTermsFormula id x tf).2 = 0
  · simp only [hden, pressureFormula, if_true, ne_eq, not_true_eq_false, false_implies, true_and, Option.some.injEq]
  · simp only [hden, pressureFormula, if_false, ne_eq, not_false_eq_true, true_implies, Option.bind_eq_bind,
      Option.bind_eq_some_iff, pressureQuotient_fault_iff, and_assoc, exists_and_left, exists_eq_left',
      Option.some.injEq]
    rfl

/-- The unclamped intermediate of the fault machine (R149). -/
theorem humidityUnclamped_fault_iff {x : CoefReg → Int} {adcH tf v : Int} :
    humidityUnclamped .fault x adcH tf = some v ↔ (∀ e ∈ humiditySteps x adcH tf, fits 32 e) ∧
      humidityFormula id x adcH tf = v := by
  simp only [humidityUnclamped, humiditySteps, humidityFormula, id, w32_fault_bind_eq_some_iff, w32_fault_eq_some_iff,
    asr_eq_shr, shl, Int.reducePow, List.forall_mem_cons, List.not_mem_nil,
    false_implies, implies_true, and_true, and_assoc]

/-- The humidity result of the fault machine (R149 to R151). -/
theorem humidity_fault_iff {p : Params} (hp : p.ovf = .fault) {x : CoefReg → Int} {adcH tf : Int}
    {h : HumidityResult} :
    humidity p x adcH tf = some h ↔ (∀ e ∈ humiditySteps x adcH tf, fits 32 e) ∧
      humidityFinish p.humOutShift (humidityFormula id x adcH tf) = h := by
  rw [humidity, hp, Option.bind_eq_bind, Option.bind_eq_some_iff]
  simp only [humidityUnclamped_fault_iff, and_assoc, exists_and_left, exists_eq_left', Option.pure_def,
    Option.some.injEq]

/-! ### The commands with `OVF` = fault -/

/-- COMPT's computation in the fault machine (R152). -/
theorem comptBody_fault_iff {s t : State} (hovf : s.params.ovf = .fault) :
    comptBody s = some t ↔
      (∀ e ∈ fineTempSteps s.x (adcT s) ++ tempOutSteps (fineTempFormula id s.x (adcT s)), fits 32 e) ∧
      temperatureWritten (fineTempFormula id s.x (adcT s)) (tempOutFormula id (fineTempFormula id s.x (adcT s))) s =
        t := by
  simp only [comptBody, hovf, rawSample_eq, Option.bind_eq_bind, Option.bind_eq_some_iff, fineTemp_fault_iff,
    tempOut_fault_iff, and_assoc, exists_and_left, exists_eq_left', Option.pure_def, Option.some.injEq,
    List.forall_mem_append, writeTemperature_eq_temperatureWritten]

/-- COMPP's computation in the fault machine (R153). -/
theorem comppBody_fault_iff {s t : State} (hovf : s.params.ovf = .fault) :
    comppBody s = some t ↔ pressureFits s.x (adcP s) s.tfine.toInt ∧
      pressureWritten (pressureFormula id s.x (adcP s) s.tfine.toInt) s = t := by
  rw [comppBody, hovf, rawSample_eq, Option.bind_eq_bind, Option.bind_eq_some_iff, State.outValue]
  simp only [pressure_fault_iff, and_assoc, exists_and_left, exists_eq_left', Option.pure_def, Option.some.injEq,
    writePressure_eq_pressureWritten]

/-- COMPH's computation in the fault machine (R154). -/
theorem comphBody_fault_iff {s t : State} (hovf : s.params.ovf = .fault) :
    comphBody s = some t ↔ (∀ e ∈ humiditySteps s.x (adcH s) s.tfine.toInt, fits 32 e) ∧
      humidityWritten (humidityFormula id s.x (adcH s) s.tfine.toInt) s = t := by
  rw [comphBody, rawSample_eq, Option.bind_eq_bind, Option.bind_eq_some_iff, State.outValue]
  simp only [humidity_fault_iff hovf, and_assoc, exists_and_left, exists_eq_left', Option.pure_def, Option.some.injEq,
    writeHumidity_eq_humidityWritten]

/-- The three results of a conversion, written (R155). -/
theorem write_conversion (tf tv v : Int) (r : Int × Bool) (s : State) :
    writeHumidity (humidityFinish s.params.humOutShift v) (writePressure r.1 r.2 (writeTemperature tf tv s)) =
      humidityWritten v (pressureWritten r (temperatureWritten tf tv s)) :=
  writeHumidity_eq_humidityWritten v (pressureWritten r (temperatureWritten tf tv s))

/-- CONV's computation in the fault machine (R155). -/
theorem convBody_fault_iff {s t : State} {tf : Int} (hovf : s.params.ovf = .fault)
    (htf : tf = fineTempFormula id s.x (adcT s)) :
    convBody s = some t ↔ convFits s.x (adcP s) (adcT s) (adcH s) tf ∧
      humidityWritten (humidityFormula id s.x (adcH s) tf) (pressureWritten (pressureFormula id s.x (adcP s) tf)
        (temperatureWritten tf (tempOutFormula id tf) s)) = t := by
  subst htf
  simp only [convBody, hovf, rawSample_eq, Option.bind_eq_bind, Option.bind_eq_some_iff, fineTemp_fault_iff,
    tempOut_fault_iff, pressure_fault_iff, humidity_fault_iff hovf, exists_and_left, exists_eq_left',
    Option.pure_def, Option.some.injEq, convFits, List.forall_mem_append, write_conversion, and_assoc]

/-- A sample command past its checks completes exactly when its computation has a result, and overflows otherwise. -/
theorem sampleCommand_fault_exact {n : Bool} {body : State → Option State} {s w : State} {P : Prop}
    (hloaded : s.status.loaded = true) (htfv : n = true → s.status.tfv = true)
    (hbody : ∀ {t}, body s = some t ↔ P ∧ w = t) :
    (P → (.next (sampleCommand n false body s) : Host.Outcome State Fault Refusal) = .next w) ∧
    (¬ P → (.next (sampleCommand n false body s) : Host.Outcome State Fault Refusal) = .next (faultWritten 14 s)) := by
  constructor
  · intro hfits
    rw [sampleCommand_of_body hloaded htfv (hbody.2 ⟨hfits, rfl⟩)]
  · intro hnot
    have hnone : body s = none := Option.eq_none_iff_forall_ne_some.2 fun t ht => hnot (hbody.1 ht).1
    rw [sampleCommand_body hloaded htfv, hnone, Option.getD_none, raiseFault_eq_faultWritten, ErrorName.code]

/-- Settles O24: COMPT's computation has a result exactly when every operation fits. -/
theorem comptOverflowsExactlyOutsideWidth : Obligations.ComptOverflowsExactlyOutsideWidth := by
  intro s tf hloaded hovf htf
  subst htf
  exact sampleCommand_fault_exact (n := false) hloaded nofun (comptBody_fault_iff hovf)

/-- Settles O25: COMPP's computation has a result exactly when every operation fits. -/
theorem comppOverflowsExactlyOutsideWidth : Obligations.ComppOverflowsExactlyOutsideWidth :=
  fun _ hloaded htfv hovf => sampleCommand_fault_exact hloaded (fun _ => htfv) (comppBody_fault_iff hovf)

/-- Settles O26: COMPH's computation has a result exactly when every operation fits. -/
theorem comphOverflowsExactlyOutsideWidth : Obligations.ComphOverflowsExactlyOutsideWidth :=
  fun _ hloaded htfv hovf => sampleCommand_fault_exact hloaded (fun _ => htfv) (comphBody_fault_iff hovf)

/-- Settles O56: CONV's computation has a result exactly when every operation of the three pipelines fits. -/
theorem convOverflowsExactlyOutsideWidth : Obligations.ConvOverflowsExactlyOutsideWidth :=
  fun _ _ hloaded hovf htf => sampleCommand_fault_exact (n := false) hloaded nofun (convBody_fault_iff hovf htf)

/-! ### CONV with `OVF` = wrap -/

/-- CONV's computation in the wrap machine (R155). -/
theorem convBody_wrap {s : State} {tf : Int} (hwrap : s.params.ovf = .wrap)
    (htf : tf = fineTempFormula s32 s.x (adcT s)) :
    convBody s = some (humidityWritten (humidityFormula s32 s.x (adcH s) tf)
      (pressureWritten (pressureFormula s64 s.x (adcP s) tf) (temperatureWritten tf (tempOutFormula s32 tf) s))) := by
  subst htf
  simp only [convBody, hwrap, rawSample_eq, fineTemp_wrap, tempOut_wrap, pressure_wrap, humidity_wrap hwrap,
    Option.bind_eq_bind, Option.bind_some, Option.pure_def, write_conversion]

/-- Settles O21: past the checks of R209 CONV ends in its computation, whose values are the formulas'. -/
theorem convComputesAllThree : Obligations.ConvComputesAllThree := fun _ _ hloaded hwrap htf =>
  congrArg Host.Outcome.next (sampleCommand_of_body (n := false) hloaded nofun (convBody_wrap hwrap htf))

end Sys2Proof.Machine
end

section
/-! The guard of the pressure pipeline (42_compensation.md R147), H4's extension (41_loader_unpacker.md R109), the ranges
of the raw sample (R116) and the truncating quotient (R142): O19, O13, O15 and O28. -/

namespace Sys2Proof.Machine

open Sys2Proof.Claims

/-! ### The guard -/

/-- The guard is the case of a denominator term 0 (R147). -/
theorem pressureFormula_guard_iff (hold : Int → Int) (x : CoefReg → Int) (adcP tf : Int) :
    (pressureFormula hold x adcP tf).2 = true ↔ (pressureTermsFormula hold x tf).2 = 0 := by
  unfold pressureFormula
  dsimp only
  split
  · next h => simp only [h]
  · next h => simp only [Bool.false_eq_true, h]

/-- The guard's P_OUT is 0 (R147). -/
theorem pressureFormula_zero_of_guard {hold : Int → Int} {x : CoefReg → Int} {adcP tf : Int}
    (h : (pressureFormula hold x adcP tf).2 = true) : (pressureFormula hold x adcP tf).1 = 0 := by
  rw [pressureFormula, if_pos ((pressureFormula_guard_iff _ _ _ _).1 h)]

/-- A right shift gives 0 exactly on the values below the power. -/
theorem shr_33_eq_zero_iff (v : Int) : shr v 33 = 0 ↔ 0 ≤ v ∧ v ≤ 8589934591 := by
  rw [← asr_eq_shr, asr]
  omega

/-- Settles O19: the denominator term is the product shifted right by 33, and it decides the guard. -/
theorem pressureGuardTakenExactly : Obligations.PressureGuardTakenExactly := by
  intro s v1 prod hloaded htfv hwrap hv1 hprod
  have hdenom : (pressureTermsFormula s64 s.x s.tfine.toInt).2 = shr prod 33 := by
    rw [hprod, hv1]
    rfl
  have hguard : (pressureFormula s64 s.x (adcP s) s.tfine.toInt).2 = true ↔ 0 ≤ prod ∧ prod ≤ 8589934591 := by
    rw [pressureFormula_guard_iff, hdenom, shr_33_eq_zero_iff]
  refine ⟨_, comppComputesPressure s hloaded htfv hwrap, hguard, fun hp1 => hguard.2 ?_, fun hpz => ?_, rfl, rfl⟩
  · rw [hprod, hp1, Int.mul_zero]
    decide
  · rw [pressureWritten, pressureFormula_zero_of_guard hpz]
    rfl

/-! ### H4's extension -/

/-- Sign extension lowers H4 by 2^12 exactly when its top byte's sign bit is set (R109). -/
theorem unpack12_sext (hi lo : Nat) :
    unpack12 true hi lo = unpack12 false hi lo - if 128 ≤ hi then 4096 else 0 := by
  simp only [unpack12_eq, if_true, Bool.false_eq_true, if_false, signed8]
  split <;> split <;> omega

/-- The temperature formula does not read H4. -/
theorem fineTempFormula_congr {x x' : CoefReg → Int} (hx : ∀ r, r ≠ .h4 → x' r = x r) (hold : Int → Int) (adc : Int) :
    fineTempFormula hold x' adc = fineTempFormula hold x adc := by
  simp only [fineTempFormula, hx .t1 nofun, hx .t2 nofun, hx .t3 nofun]

/-- The terms before the guard do not read H4. -/
theorem pressureTermsFormula_congr {x x' : CoefReg → Int} (hx : ∀ r, r ≠ .h4 → x' r = x r) (hold : Int → Int)
    (tf : Int) : pressureTermsFormula hold x' tf = pressureTermsFormula hold x tf := by
  simp only [pressureTermsFormula, hx .p1 nofun, hx .p2 nofun, hx .p3 nofun, hx .p4 nofun, hx .p5 nofun,
    hx .p6 nofun]

/-- The final p does not read H4. -/
theorem pressureQuotientFormula_congr {x x' : CoefReg → Int} (hx : ∀ r, r ≠ .h4 → x' r = x r) (hold : Int → Int)
    (adc v2 den : Int) :
    pressureQuotientFormula hold x' adc v2 den = pressureQuotientFormula hold x adc v2 den := by
  simp only [pressureQuotientFormula, hx .p7 nofun, hx .p8 nofun, hx .p9 nofun]

/-- The pressure formula does not read H4. -/
theorem pressureFormula_congr {x x' : CoefReg → Int} (hx : ∀ r, r ≠ .h4 → x' r = x r) (hold : Int → Int)
    (adc tf : Int) : pressureFormula hold x' adc tf = pressureFormula hold x adc tf := by
  rw [pressureFormula, pressureFormula, pressureTermsFormula_congr hx, pressureQuotientFormula_congr hx]

/-- The humidity formula reads H4 in one product, which 2^12 · 2^20 = 2^32 leaves alone at 32 bits (R109). -/
theorem humidityFormula_congr {x x' : CoefReg → Int} (hx : ∀ r, r ≠ .h4 → x' r = x r) (h4 : x' .h4 = x .h4 - 4096)
    (adc tf : Int) : humidityFormula s32 x' adc tf = humidityFormula s32 x adc tf := by
  have hproduct : s32 (x' .h4 * 1048576) = s32 (x .h4 * 1048576) := by
    unfold s32
    rw [h4, Int.sub_mul]
    exact Int.sub_bmod_right _ 4294967296
  simp only [humidityFormula, hproduct, hx .h1 nofun, hx .h2 nofun, hx .h3 nofun, hx .h5 nofun, hx .h6 nofun]

/-- An H4 of at least 2^11 has a product that 32 bits do not hold. -/
theorem humidity_not_fits {x : CoefReg → Int} (h4 : 2048 ≤ x .h4) (adc tf : Int) :
    ¬ ∀ e ∈ humiditySteps x adc tf, fits 32 e := by
  intro hfits
  have hproduct : fits 32 (x .h4 * 1048576) := hfits _ (by simp only [humiditySteps, List.mem_cons, true_or, or_true])
  obtain ⟨-, hlt⟩ := hproduct
  norm_num at hlt
  omega

/-- Settles O13: the unpacker's two extensions differ by 2^12, the wrap machine's formulas do not see that, and the fault
machine's product with H4 does not fit. -/
theorem h4ExtensionDoesNotReachHumidity : Obligations.H4ExtensionDoesNotReachHumidity := by
  refine ⟨fun p img => ?_, fun s c hwrap hloaded hx h4 => ⟨?_, fun htfv => ?_⟩, fun s hovf hloaded h4 => ⟨?_, ?_⟩⟩
  · rw [loadedValue_h4, loadedValue_h4]
    exact unpack12_sext _ _
  · refine ⟨_, convComputesAllThree s _ hloaded hwrap rfl, ?_⟩
    refine (convComputesAllThree (s.withCoef c) _ hloaded hwrap rfl).trans ?_
    have hx' : ∀ r, r ≠ .h4 → (s.withCoef c).x r = s.x r := hx
    rw [fineTempFormula_congr hx', pressureFormula_congr hx', humidityFormula_congr hx' h4]
    rfl
  · refine ⟨_, comphComputesHumidity s hloaded htfv hwrap, ?_⟩
    refine (comphComputesHumidity (s.withCoef c) hloaded htfv hwrap).trans ?_
    rw [humidityFormula_congr (x := s.x) (x' := (s.withCoef c).x) hx h4]
    rfl
  · exact (convOverflowsExactlyOutsideWidth s _ hloaded hovf rfl).2 fun hfits => humidity_not_fits h4 _ _ hfits.2.2
  · exact fun htfv => (comphOverflowsExactlyOutsideWidth s hloaded htfv hovf).2 (humidity_not_fits h4 _ _)

/-! ### The raw sample and the quotient -/

/-- Settles O15: the extractor's three numbers are formed from bytes. -/
theorem rawSampleIsBigEndianFields : Obligations.RawSampleIsBigEndianFields := by
  intro s
  have hbyte := imageByte_lt s.samplePort
  have h0 := hbyte 0
  have h1 := hbyte 1
  have h2 := hbyte 2
  have h3 := hbyte 3
  have h4 := hbyte 4
  have h5 := hbyte 5
  have h6 := hbyte 6
  have h7 := hbyte 7
  refine ⟨rawSample_eq s, ?_⟩
  unfold adcP adcT adcH
  omega

/-- A nonzero truncated quotient is positive exactly when the signs agree (R142). -/
theorem tdiv_pos_iff {a b : Int} (hb : b ≠ 0) (h : tdiv a b ≠ 0) : 0 < tdiv a b ↔ (0 < a ↔ 0 < b) := by
  have ha : a ≠ 0 := fun ha => h (by rw [ha, tdiv, Int.zero_tdiv])
  have hsign : (tdiv a b).sign = a.sign * b.sign := by
    have hnot : ¬ a.natAbs < b.natAbs := fun hlt => h (Int.natAbs_eq_zero.1 (by
      rw [tdiv, Int.natAbs_tdiv]
      exact Nat.div_eq_of_lt hlt))
    rw [tdiv, Int.sign_tdiv, if_neg hnot]
  rw [← Int.sign_eq_one_iff_pos, hsign]
  obtain ha | ha := lt_or_gt_of_ne ha <;> obtain hb | hb := lt_or_gt_of_ne hb
  · rw [Int.sign_eq_neg_one_of_neg ha, Int.sign_eq_neg_one_of_neg hb]; omega
  · rw [Int.sign_eq_neg_one_of_neg ha, Int.sign_eq_one_of_pos hb]; omega
  · rw [Int.sign_eq_one_of_pos ha, Int.sign_eq_neg_one_of_neg hb]; omega
  · rw [Int.sign_eq_one_of_pos ha, Int.sign_eq_one_of_pos hb]; omega

/-- Settles O28: the library's truncated quotient, and the four sign cases computed. -/
theorem divisionTruncatesTowardZero : Obligations.DivisionTruncatesTowardZero :=
  ⟨fun a b hb => ⟨Int.natAbs_tdiv a b, tdiv_pos_iff hb⟩, by decide, by decide, by decide, by decide, by decide,
    by decide⟩

end Sys2Proof.Machine
end

section
/-! What the host reads: STATUS as a word (10_state.md R29, R37), the read ports (R24, R28), and the pressure view of the
guard (42_compensation.md R158): O43, O45 and O54. -/

namespace Sys2Proof.Machine

open Sys2Proof.Claims

/-- Settles O43: each field of STATUS stands at its own place of the word, and no field reaches bits 15:13. -/
theorem statusWordHasItsLayout : Obligations.StatusWordHasItsLayout := by
  intro st
  have herr : st.toWord.extractLsb' 8 4 = st.err := by
    apply BitVec.eq_of_getLsbD_eq
    intro i hi
    interval_cases i <;> simp only [Status.toWord, BitVec.getLsbD_extractLsb', BitVec.getLsbD_append] <;> simp
  have hreserved : st.toWord.extractLsb' 13 3 = 0 := by
    apply BitVec.eq_of_getLsbD_eq
    intro i hi
    interval_cases i <;> simp only [Status.toWord, BitVec.getLsbD_extractLsb', BitVec.getLsbD_append] <;> simp
  refine ⟨?_, ?_, ?_, ?_, ?_, ?_, ?_, ?_, herr, ?_, hreserved⟩ <;>
    simp only [Status.toWord, BitVec.getLsbD_append] <;> simp

/-- A read that returns takes its action off the host's list and changes nothing else (R60). -/
theorem step_read_next {s : State} {p : ReadPort} {rest : List HostAction} {v : Int} (hhost : s.host = .read p :: rest)
    (hread : readPort p s = .next v) : step s = .next (s.withHost rest) := by
  have hread' : readPort p (s.withHost rest) = .next v := hread
  rw [step_cons hhost, hostAct, runRead, hread']

/-- A read of no value ends the run (log 8). -/
theorem step_read_fault {s : State} {p : ReadPort} {rest : List HostAction} {f : Fault}
    (hhost : s.host = .read p :: rest) (hread : readPort p s = .fault f) : step s = .fault f := by
  have hread' : readPort p (s.withHost rest) = .fault f := hread
  rw [step_cons hhost, hostAct, runRead, hread']

/-- Settles O45: a read port looks at its register's valid bit, and a host read adds nothing to the port's answer. -/
theorem readPortsReturnValidRegistersOnly : Obligations.ReadPortsReturnValidRegistersOnly := fun _ =>
  ⟨fun _ => rfl, rfl, rfl, rfl, rfl, rfl, fun _ _ _ => step_read_next, fun _ _ _ => step_read_fault⟩

/-- The view of an output whose valid bit is set (R157). -/
theorem view_of_valid {s : State} {q : Quantity} (fmt : FloatFmt) (h : s.status.outValid q.register = true) :
    s.view fmt q = some (viewOf fmt q (s.outValue q.register)) := by
  have hread : readPort (.out q.register) s = .next (s.outValue q.register) := if_pos h
  rw [State.view, hread]

/-- Settles O54: the invariant puts P_OUT = 0 beside PZ = 1, and the view of 0 is +0.0 in every format. -/
theorem guardViewIsPositiveZero : Obligations.GuardViewIsPositiveZero := by
  intro s fmt hinv hpz
  obtain ⟨hpv, hpOut⟩ := hinv.pz_pOut hpz
  have hvalue : s.outValue .pOut = 0 := by rw [State.outValue, hpOut]; rfl
  refine ⟨hpOut, (view_of_valid (q := .pressurePa) fmt hpv).trans ?_⟩
  rw [Quantity.register, hvalue, viewOf, roundQuotient, if_pos rfl, FloatVal.zero]

end Sys2Proof.Machine
end

section
/-! The host's views (42_compensation.md R157): an exact quotient rounded once, to nearest with ties to even. First the
rounding to an integer, then the exponent that gives the significand its full length, then both together: O53, and O52
from it. -/

namespace Sys2Proof.Machine

/-! ### Rounding to an integer -/

/-- An integer multiple of the denominator is farther from the numerator than the rounded one, or equally far while the
rounded one is even. -/
theorem roundHalfEven_nearest_natAbs (num : Nat) {den : Nat} (hden : 0 < den) (k : Int) :
    k = roundHalfEven num den ∨
    ((roundHalfEven num den : Int) * den - num).natAbs < (k * den - num).natAbs ∨
    (((roundHalfEven num den : Int) * den - num).natAbs = (k * den - num).natAbs ∧ roundHalfEven num den % 2 = 0) := by
  have hsplit : (num : Int) = (num / den : Nat) * den + (num % den : Nat) := by
    exact_mod_cast (Nat.div_add_mod' num den).symm
  have hrem : num % den < den := Nat.mod_lt _ hden
  unfold roundHalfEven
  generalize num / den = q at *
  generalize num % den = r at *
  have hbelow : k ≤ q - 1 → k * den ≤ (q : Int) * den - den := fun hk => by nlinarith
  have habove : (q : Int) + 2 ≤ k → (q : Int) * den + 2 * den ≤ k * den := fun hk => by nlinarith
  have hat : k = q → k * den = (q : Int) * den := fun hk => by rw [hk]
  have hnext : k = q + 1 → k * den = (q : Int) * den + den := fun hk => by rw [hk]; ring
  have hup : ((q + 1 : Nat) : Int) * den = (q : Int) * den + den := by push_cast; ring
  generalize k * (den : Int) = kd at *
  rw [hsplit]
  dsimp only
  split
  · generalize (q : Int) * den = c at *
    omega
  · split
    · rw [hup]
      generalize (q : Int) * den = c at *
      omega
    · split
      · generalize (q : Int) * den = c at *
        omega
      · rw [hup]
        generalize (q : Int) * den = c at *
        omega

/-! ### The exponent -/

/-- The quotient scaled by a power of two, as a rational number. -/
theorem scaled_ratio (a d : Nat) (e : Int) :
    ((scaled a d e).1 : ℚ) / ((scaled a d e).2 : ℚ) = (a : ℚ) / d * 2 ^ (-e) := by
  obtain ⟨k, rfl | rfl⟩ := e.eq_nat_or_neg
  · simp only [scaled, Int.toNat_natCast, Int.toNat_neg_natCast, pow_zero, mul_one, zpow_neg, zpow_natCast]
    push_cast
    rw [div_mul_eq_div_div, div_eq_mul_inv _ ((2 : ℚ) ^ k)]
  · simp only [scaled, neg_neg, Int.toNat_natCast, Int.toNat_neg_natCast, pow_zero, mul_one, zpow_natCast]
    push_cast
    rw [mul_div_right_comm]

theorem scaled_den_pos (a : Nat) {d : Nat} (hd : 0 < d) (e : Int) : 0 < (scaled a d e).2 :=
  Nat.mul_pos hd (Nat.two_pow_pos _)

/-- A number lies between the powers of two of its logarithm. -/
theorem log2_bounds {a : Nat} (ha : a ≠ 0) : (2 : ℚ) ^ (Nat.log2 a : Int) ≤ a ∧ (a : ℚ) < 2 * 2 ^ (Nat.log2 a : Int) := by
  rw [zpow_natCast]
  refine ⟨by exact_mod_cast Nat.log2_self_le ha, ?_⟩
  have hlt : a < 2 * 2 ^ Nat.log2 a := by
    have := Nat.lt_log2_self (n := a)
    rwa [pow_succ'] at this
  exact_mod_cast hlt

/-- Scaled by the difference of the logarithms and by `p` bits, a quotient lies within a factor of two around 2^p. -/
theorem scaled_by_logs_bounds {a d : Nat} (ha : a ≠ 0) (hd : d ≠ 0) (p : Nat) :
    (2 : ℚ) ^ p < 2 * ((a : ℚ) / d * 2 ^ (-((Nat.log2 a : Int) - Nat.log2 d - p))) ∧
      (a : ℚ) / d * 2 ^ (-((Nat.log2 a : Int) - Nat.log2 d - p)) < 2 * 2 ^ p := by
  obtain ⟨hale, halt⟩ := log2_bounds ha
  obtain ⟨hdle, hdlt⟩ := log2_bounds hd
  have hpow : (2 : ℚ) ^ (-((Nat.log2 a : Int) - Nat.log2 d - p)) =
      2 ^ (Nat.log2 d : Int) * 2 ^ p / 2 ^ (Nat.log2 a : Int) := by
    rw [← zpow_natCast 2 p, ← zpow_add₀ two_ne_zero, ← zpow_sub₀ two_ne_zero]
    congr 1
    ring
  have hA : (0 : ℚ) < 2 ^ (Nat.log2 a : Int) := by positivity
  have hD : (0 : ℚ) < 2 ^ (Nat.log2 d : Int) := by positivity
  have hP : (0 : ℚ) < 2 ^ p := by positivity
  have hdpos : (0 : ℚ) < d := hD.trans_le hdle
  rw [hpow]
  generalize (2 : ℚ) ^ (Nat.log2 a : Int) = A at *
  generalize (2 : ℚ) ^ (Nat.log2 d : Int) = D at *
  generalize (2 : ℚ) ^ p = P at *
  have hform : (a : ℚ) / d * (D * P / A) = (a * D) / (d * A) * P := by field_simp
  have hden : 0 < d * A := mul_pos hdpos hA
  rw [hform]
  have hlow : 1 < 2 * ((a * D) / (d * A)) := by
    rw [← mul_div_assoc, one_lt_div hden]
    nlinarith
  have hhigh : (a * D) / (d * A) < 2 := by
    rw [div_lt_iff₀ hden]
    nlinarith
  constructor <;> nlinarith

/-- At its rounding exponent a quotient has a significand of exactly `p` bits (R157). -/
theorem roundExponent_bounds {p a d : Nat} (ha : a ≠ 0) (hd : d ≠ 0) :
    (2 : ℚ) ^ p ≤ 2 * ((a : ℚ) / d * 2 ^ (-roundExponent p a d)) ∧
      (a : ℚ) / d * 2 ^ (-roundExponent p a d) < 2 ^ p := by
  obtain ⟨hlow, hhigh⟩ := scaled_by_logs_bounds ha hd p
  have hden := scaled_den_pos a (Nat.pos_of_ne_zero hd) ((Nat.log2 a : Int) - Nat.log2 d - p)
  have hratio := scaled_ratio a d ((Nat.log2 a : Int) - Nat.log2 d - p)
  have hdenq : (0 : ℚ) < (scaled a d ((Nat.log2 a : Int) - Nat.log2 d - p)).2 := by exact_mod_cast hden
  unfold roundExponent
  dsimp only
  split
  · next hlt =>
    rw [Nat.div_lt_iff_lt_mul hden] at hlt
    refine ⟨hlow.le, ?_⟩
    rw [← hratio, div_lt_iff₀ hdenq]
    exact_mod_cast hlt
  · next hge =>
    rw [not_lt, Nat.le_div_iff_mul_le hden] at hge
    have hhalf : (2 : ℚ) ^ (-((Nat.log2 a : Int) - Nat.log2 d - p + 1)) =
        2 ^ (-((Nat.log2 a : Int) - Nat.log2 d - p)) / 2 := by
      rw [neg_add, zpow_add₀ two_ne_zero, zpow_neg_one, div_eq_mul_inv]
    have hge' : (2 : ℚ) ^ p ≤ (a : ℚ) / d * 2 ^ (-((Nat.log2 a : Int) - Nat.log2 d - p)) := by
      rw [← hratio, le_div_iff₀ hdenq]
      exact_mod_cast hge
    rw [hhalf]
    constructor <;> linarith

/-! ### The significand -/

/-- The rounded integer is at most the bound the quotient lies below. -/
theorem roundHalfEven_le {num den b : Nat} (hden : 0 < den) (h : num < b * den) : roundHalfEven num den ≤ b := by
  have hdiv : num / den < b := (Nat.div_lt_iff_lt_mul hden).2 h
  unfold roundHalfEven
  dsimp only
  split_ifs <;> omega

/-- Every integer is farther from the quotient than the rounded one, or is it, or is equally far while that is even. -/
theorem roundHalfEven_nearest (num : Nat) {den : Nat} (hden : 0 < den) (k : Int) :
    (k : ℚ) = roundHalfEven num den ∨
    |(roundHalfEven num den : ℚ) - num / den| < |(k : ℚ) - num / den| ∨
    (|(roundHalfEven num den : ℚ) - num / den| = |(k : ℚ) - num / den| ∧ roundHalfEven num den % 2 = 0) := by
  have hdenq : (0 : ℚ) < den := by exact_mod_cast hden
  have hdist (j : Int) : |(j : ℚ) - num / den| = ((j * den - num).natAbs : ℚ) / den := by
    rw [Nat.cast_natAbs]
    push_cast
    rw [← abs_of_pos hdenq, ← abs_div, abs_of_pos hdenq, sub_div, mul_div_cancel_right₀ _ hdenq.ne']
  have hm := hdist (roundHalfEven num den)
  rw [Int.cast_natCast] at hm
  rw [hm, hdist k]
  obtain heq | hlt | ⟨heq, heven⟩ := roundHalfEven_nearest_natAbs num hden k
  · exact .inl (by exact_mod_cast heq)
  · exact .inr (.inl (by gcongr))
  · exact .inr (.inr ⟨by rw [heq], heven⟩)

/-- A value below every significand of full length is farther from the quotient than the rounded integer. -/
theorem roundHalfEven_nearer_than_short {p num den : Nat} (hp : 0 < p) (hden : 0 < den)
    (hlong : (2 : ℚ) ^ p ≤ 2 * (num / den)) {y : ℚ} (hy : 2 * y < 2 ^ p) :
    |(roundHalfEven num den : ℚ) - num / den| < |y - num / den| := by
  obtain ⟨j, rfl⟩ : ∃ j, p = j + 1 := ⟨p - 1, by omega⟩
  rw [pow_succ'] at hlong hy
  have hclose : |(roundHalfEven num den : ℚ) - num / den| ≤ |(2 : ℚ) ^ j - num / den| := by
    have hcast : (((2 ^ j : Nat) : Int) : ℚ) = 2 ^ j := by push_cast; rfl
    obtain heq | hlt | ⟨heq, -⟩ := roundHalfEven_nearest num hden (2 ^ j : Nat)
    · rw [← heq, hcast]
    · rw [hcast] at hlt; exact hlt.le
    · rw [hcast] at heq; exact heq.le
  refine hclose.trans_lt ?_
  rw [abs_of_nonpos (by linarith), abs_of_nonpos (by linarith)]
  linarith

/-! ### Both together -/

/-- The sign of a value as a factor. -/
def signFactor (neg : Bool) : Int := if neg then -1 else 1

theorem signFactor_mul_self (neg : Bool) : (signFactor neg : ℚ) * signFactor neg = 1 := by
  cases neg <;> simp [signFactor]

theorem abs_signFactor (neg : Bool) : |(signFactor neg : ℚ)| = 1 := by
  cases neg <;> simp [signFactor]

theorem FloatVal.toRat_eq (v : FloatVal) : v.toRat = signFactor v.neg * ((v.mant : ℚ) * 2 ^ v.exp) := by
  rw [FloatVal.toRat, mul_assoc]
  cases v.neg <;> simp [signFactor]

/-- An integer is its sign times its magnitude. -/
theorem signFactor_mul_natAbs (n : Int) : (signFactor (decide (n < 0)) : ℚ) * n.natAbs = n := by
  have hint : signFactor (decide (n < 0)) * n.natAbs = n := by
    by_cases hn : n < 0
    · simp only [signFactor, hn, decide_true, if_true]; omega
    · simp only [signFactor, hn, decide_false, Bool.false_eq_true, if_false]; omega
  have hcast := congrArg (Int.cast (R := ℚ)) hint
  rwa [Int.cast_mul, Int.cast_natCast] at hcast

/-- What `roundQuotient` answers for n ≠ 0: the sign of n, a significand that fits, and the rounded integer as its value,
whose being even it shares (R157). -/
theorem roundQuotient_spec {p : Nat} (hp : 2 ≤ p) {n : Int} (hn : n ≠ 0) {d : Nat} (hd : d ≠ 0) {m : Nat} {e : Int}
    (he : e = roundExponent p n.natAbs d)
    (hm : m = roundHalfEven (scaled n.natAbs d e).1 (scaled n.natAbs d e).2) :
    (roundQuotient p n d).mant < 2 ^ p ∧ (m % 2 = 0 → (roundQuotient p n d).mant % 2 = 0) ∧
      (roundQuotient p n d).toRat = signFactor (decide (n < 0)) * ((m : ℚ) * 2 ^ e) := by
  have hden := scaled_den_pos n.natAbs (Nat.pos_of_ne_zero hd) e
  have hdenq : (0 : ℚ) < (scaled n.natAbs d e).2 := by exact_mod_cast hden
  have hshort := (roundExponent_bounds (p := p) (Int.natAbs_ne_zero.2 hn) hd).2
  rw [← he, ← scaled_ratio, div_lt_iff₀ hdenq] at hshort
  have hle : m ≤ 2 ^ p := hm ▸ roundHalfEven_le hden (by exact_mod_cast hshort)
  obtain ⟨j, rfl⟩ : ∃ j, p = j + 2 := ⟨p - 2, by omega⟩
  have hunfold : roundQuotient (j + 2) n d =
      if m = 2 ^ (j + 2) then { neg := decide (n < 0), mant := 2 ^ (j + 1), exp := e + 1 }
      else { neg := decide (n < 0), mant := m, exp := e } := by
    rw [roundQuotient, if_neg hn, hm, he]
    rfl
  rw [hunfold]
  split
  · next hfull =>
    refine ⟨Nat.pow_lt_pow_right (by decide) (by omega), fun _ => ?_, ?_⟩
    · rw [pow_succ, Nat.mul_mod_left]
    · rw [FloatVal.toRat_eq, hfull, zpow_add₀ two_ne_zero, zpow_one]
      push_cast
      ring
  · next hnot => exact ⟨lt_of_le_of_ne hle hnot, id, by rw [FloatVal.toRat_eq]⟩

/-- On the scale of an exponent every value whose significand fits `p` bits is an integer, or shorter than `p` bits. -/
theorem FloatVal.scaled_int_or_short {u : FloatVal} {p : Nat} (hu : u.mant < 2 ^ p) (neg : Bool) (e : Int) :
    (∃ k : Int, signFactor neg * u.toRat * 2 ^ (-e) = k) ∨ 2 * (signFactor neg * u.toRat * 2 ^ (-e)) < 2 ^ p := by
  have hpow : (2 : ℚ) ^ u.exp * 2 ^ (-e) = 2 ^ (u.exp - e) := by
    rw [← zpow_add₀ two_ne_zero, sub_eq_add_neg]
  have hform : signFactor neg * u.toRat * 2 ^ (-e) =
      (signFactor neg * signFactor u.neg * u.mant : Int) * (2 : ℚ) ^ (u.exp - e) := by
    rw [FloatVal.toRat_eq, ← hpow]
    push_cast
    ring
  rw [hform]
  by_cases he : e ≤ u.exp
  · left
    obtain ⟨k, hk⟩ := Int.eq_ofNat_of_zero_le (sub_nonneg.2 he)
    refine ⟨signFactor neg * signFactor u.neg * u.mant * 2 ^ k, ?_⟩
    rw [hk, zpow_natCast]
    push_cast
    rfl
  · right
    have hsign : signFactor neg * signFactor u.neg * u.mant ≤ u.mant := by
      cases neg <;> cases u.neg <;> simp [signFactor]
    have hsignq : ((signFactor neg * signFactor u.neg * u.mant : Int) : ℚ) ≤ u.mant := by exact_mod_cast hsign
    have hsmall : 2 * (2 : ℚ) ^ (u.exp - e) ≤ 1 := by
      rw [← zpow_one_add₀ two_ne_zero]
      exact zpow_le_one_of_nonpos₀ one_le_two (by omega)
    have huq : (u.mant : ℚ) < 2 ^ p := by exact_mod_cast hu
    have hpos : (0 : ℚ) < 2 ^ (u.exp - e) := by positivity
    have hmant : (0 : ℚ) ≤ u.mant := by positivity
    nlinarith

/-- On the scale of the rounding exponent, the rounded integer beats every value whose significand fits. -/
theorem roundHalfEven_beats {p num den : Nat} (hp : 0 < p) (hden : 0 < den) (hlong : (2 : ℚ) ^ p ≤ 2 * (num / den))
    {y : ℚ} (hy : (∃ k : Int, y = k) ∨ 2 * y < 2 ^ p) :
    y = roundHalfEven num den ∨
    |(roundHalfEven num den : ℚ) - num / den| < |y - num / den| ∨
    (|(roundHalfEven num den : ℚ) - num / den| = |y - num / den| ∧ roundHalfEven num den % 2 = 0) := by
  obtain ⟨k, rfl⟩ | hshort := hy
  · exact roundHalfEven_nearest num hden k
  · exact .inr (.inl (roundHalfEven_nearer_than_short hp hden hlong hshort))

/-- The sign and the scale change no comparison of distances. -/
theorem abs_signFactor_scale_sub (neg : Bool) (e : Int) (y x : ℚ) :
    |signFactor neg * (y * 2 ^ e) - signFactor neg * (x * 2 ^ e)| = |y - x| * 2 ^ e := by
  have hpos : (0 : ℚ) < 2 ^ e := by positivity
  rw [← mul_sub, ← sub_mul, abs_mul, abs_mul, abs_signFactor, one_mul, abs_of_pos hpos]

/-- The rounding of R157: nearest, ties to even, among all values whose significand fits. -/
theorem roundQuotient_nearest {p : Nat} (hp : 2 ≤ p) (n : Int) {d : Nat} (hd : d ≠ 0) {u : FloatVal}
    (hu : u.mant < 2 ^ p) :
    (roundQuotient p n d).mant < 2 ^ p ∧
    ((roundQuotient p n d).toRat = u.toRat ∨
      |(roundQuotient p n d).toRat - (n : ℚ) / d| < |u.toRat - (n : ℚ) / d| ∨
      (|(roundQuotient p n d).toRat - (n : ℚ) / d| = |u.toRat - (n : ℚ) / d| ∧
        (roundQuotient p n d).mant % 2 = 0)) := by
  by_cases hn : n = 0
  · have hzero : roundQuotient p n d = FloatVal.zero := by rw [roundQuotient, if_pos hn]
    have hrat : FloatVal.zero.toRat = 0 := by rw [FloatVal.toRat_eq, FloatVal.zero, Nat.cast_zero, zero_mul, mul_zero]
    rw [hzero, hrat, hn, Int.cast_zero, zero_div, sub_zero, sub_zero, abs_zero]
    refine ⟨Nat.two_pow_pos p, ?_⟩
    by_cases hu0 : u.toRat = 0
    · exact .inl hu0.symm
    · exact .inr (.inl (abs_pos.2 hu0))
  · obtain ⟨hfits, heven, hrat⟩ := roundQuotient_spec hp hn hd rfl rfl
    refine ⟨hfits, ?_⟩
    have hlong := (roundExponent_bounds (p := p) (Int.natAbs_ne_zero.2 hn) hd).1
    have hden := scaled_den_pos n.natAbs (Nat.pos_of_ne_zero hd) (roundExponent p n.natAbs d)
    have hratio := scaled_ratio n.natAbs d (roundExponent p n.natAbs d)
    rw [← hratio] at hlong
    generalize roundExponent p n.natAbs d = e at *
    have hunit : (2 : ℚ) ^ (-e) * 2 ^ e = 1 := by rw [← zpow_add₀ two_ne_zero, neg_add_cancel, zpow_zero]
    have hquot : (n : ℚ) / d =
        signFactor (decide (n < 0)) * ((scaled n.natAbs d e).1 / (scaled n.natAbs d e).2 * 2 ^ e) := by
      rw [hratio, mul_assoc, hunit, mul_one, ← mul_div_assoc, signFactor_mul_natAbs]
    have hvalue : u.toRat =
        signFactor (decide (n < 0)) * (signFactor (decide (n < 0)) * u.toRat * 2 ^ (-e) * 2 ^ e) := by
      rw [mul_assoc _ ((2 : ℚ) ^ (-e)), hunit, mul_one, ← mul_assoc, signFactor_mul_self, one_mul]
    have hscale : (0 : ℚ) < 2 ^ e := by positivity
    rw [hrat, hquot, hvalue, abs_signFactor_scale_sub, abs_signFactor_scale_sub]
    obtain heq | hlt | ⟨htie, hevenm⟩ := roundHalfEven_beats (by omega) hden hlong
      (u.scaled_int_or_short hu (decide (n < 0)) e)
    · exact .inl (by rw [heq])
    · exact .inr (.inl ((mul_lt_mul_iff_left₀ hscale).2 hlt))
    · exact .inr (.inr ⟨by rw [htie], heven hevenm⟩)

/-! ### The views -/

theorem two_le_precision (fmt : FloatFmt) : 2 ≤ precision fmt := by cases fmt <;> decide

theorem divisor_ne_zero (q : Quantity) : q.divisor ≠ 0 := by cases q <;> decide

/-- Settles O53: a view is its quotient rounded to the format's precision. -/
theorem viewsRoundToNearestEven : Obligations.ViewsRoundToNearestEven := fun fmt q n _ hu =>
  roundQuotient_nearest (two_le_precision fmt) n (divisor_ne_zero q) hu

/-- A quotient that is itself a value of the format is its own view. -/
theorem viewOf_eq_of_fits {fmt : FloatFmt} {q : Quantity} {n : Int} {u : FloatVal} (hu : u.mant < 2 ^ precision fmt)
    (hexact : u.toRat = (n : ℚ) / q.divisor) : (viewOf fmt q n).toRat = (n : ℚ) / q.divisor := by
  obtain ⟨-, heq | hlt | ⟨htie, -⟩⟩ := viewsRoundToNearestEven fmt q n u hu
  · exact heq.trans hexact
  · rw [hexact, sub_self, abs_zero] at hlt
    exact absurd hlt (abs_nonneg _).not_gt
  · rw [hexact, sub_self, abs_zero, abs_eq_zero] at htie
    exact sub_eq_zero.1 htie

/-- Settles O52: 32 bits fit a significand of 53, and both divisors are powers of two. -/
theorem binary64PressureAndHumidityViewsAreExact : Obligations.Binary64PressureAndHumidityViewsAreExact := by
  intro v
  have hfits : v.toNat < 2 ^ precision .binary64 := v.isLt.trans (by decide)
  have hexact (k : Nat) : (⟨false, v.toNat, -k⟩ : FloatVal).toRat = (v.toNat : ℚ) / 2 ^ k := by
    rw [FloatVal.toRat_eq, zpow_neg, zpow_natCast, div_eq_mul_inv, signFactor]
    simp
  constructor
  · refine (viewOf_eq_of_fits (u := ⟨false, v.toNat, -(8 : Nat)⟩) hfits ?_).trans ?_
    · rw [hexact]; norm_num [Quantity.divisor]
    · norm_num [Quantity.divisor]
  · refine (viewOf_eq_of_fits (u := ⟨false, v.toNat, -(10 : Nat)⟩) hfits ?_).trans ?_
    · rw [hexact]; norm_num [Quantity.divisor]
    · norm_num [Quantity.divisor]

end Sys2Proof.Machine
end
